-- ==== Sys2Proof/Word.lean ====
section
/-! DEFINITION. The sizes of the ILF-16's values: a 16-bit word, a 32-bit instruction, a 4-bit register identifier (00_scope.md R4, R6). -/

namespace Sys2Proof

/-- A register, a RAM word, a port value, an ALU operand: 16 bits (R4 `XLEN`). -/
abbrev Word := BitVec 16

/-- One entry of the instruction ROM: a whole instruction `{upper, lower}`, 32 bits (R4 `ILEN`, R80). -/
abbrev InstrWord := BitVec 32

/-- A register identifier, 0 to 15 (R21): every value of the 4-bit field names a register. -/
abbrev RegId := BitVec 4

/-- The number of an input or output port, 0 to 15 (R4 `N_IN_PORTS`, `N_OUT_PORTS`). -/
abbrev PortId := BitVec 4

end Sys2Proof
end

