-- ==== Sys2Proof/Config.lean ====
section
/-! DEFINITION. What the source fixes for every ILF-16 (00_scope.md R4), what it leaves open as a named parameter (R5), and the free values. -/

namespace Sys2Proof

/-! The parameters the source fixes (00_scope.md R4). -/

/-- Entries of the instruction ROM, one 32-bit instruction each. -/
def romEntries : Nat := 13312

/-- Words of the RAM, 16 bits each. -/
def ramWords : Nat := 8192

/-- The clock, in Hz. -/
def clockHz : Nat := 48000000

/-- Clock cycles of every instruction but STL (R340). -/
def clocksPerInstruction : Nat := 4

/-- Bit rate of the link to ILF-GFX, in bits per second (R4, R272). -/
def gfxLinkBitrate : Nat := 480000000

/-! The parameters the source leaves open (00_scope.md R5), each with the settings the spec gives it. -/

/-- `PC_WIDTH`, the width of the program counter (decision D2). -/
inductive PcWidth where
  | w14
  | w16
deriving DecidableEq, Repr

/-- The width as a number of bits. -/
def PcWidth.bits : PcWidth → Nat
  | .w14 => 14
  | .w16 => 16

/-- `UNWRITTEN`: what reading a RAM word does that nothing has written (R36, decision D4). -/
inductive Unwritten where
  | fault
  | draw
deriving DecidableEq, Repr

/-- `IMM_EXT`: how an 8-bit or 12-bit immediate becomes 16 bits (R86, decision D5). -/
inductive ImmExt where
  | zero
  | sign
deriving DecidableEq, Repr

/-- `SHIFT_OVER`: the result of a shift by 16 or more (R150, decision D14). -/
inductive ShiftOver where
  | draw
  | zero
  | mod16
deriving DecidableEq, Repr

/-- `SUB_C_SENSE`: what flag C means after SUB (R131, decision D12). -/
inductive SubCSense where
  | borrow
  | carry
deriving DecidableEq, Repr

/-- `ONEARG_B`: the ALU's B input for PASS and NOT (R140, R141, decision D16). -/
inductive OneArgB where
  | draw
  | zero
deriving DecidableEq, Repr

/-- `RAM_OOB`: a RAM address of 8,192 or more (R52, R53, decision D19). -/
inductive RamOob where
  | fault
  | wrap13
deriving DecidableEq, Repr

/-- `PORT_OOB`: a port number of 16 or more (R58, R59, decision D20). -/
inductive PortOob where
  | fault
  | low4
deriving DecidableEq, Repr

/-- The open parameters of 00_scope.md R5. `PROGRAM` and `RAM_IMAGE` are fields of the state; `GFX_COLOR_BITS` is
`Config.gfxColorIndex` below. DESIGN CHOICE (entry 6): they are data of the state, so that a claim about every state is a
claim about every setting. -/
structure Config where
  pcWidth   : PcWidth
  resetPc   : Fin romEntries
  unwritten : Unwritten
  immExt    : ImmExt
  shiftOver : ShiftOver
  subCSense : SubCSense
  oneArgB   : OneArgB
  ramOob    : RamOob
  portOob   : PortOob
deriving DecidableEq, Repr

/-- The defaults of 00_scope.md R5. -/
def Config.specDefault : Config where
  pcWidth   := .w16
  resetPc   := ⟨0, by decide⟩
  unwritten := .fault
  immExt    := .zero
  shiftOver := .draw
  subCSense := .borrow
  oneArgB   := .draw
  ramOob    := .fault
  portOob   := .fault

/-! The free values: constants without a body, so that nothing can be proved of what they are. The first argument of a
draw is `State.draws`, which every draw advances (R7 `draw_N()`; entry 14). -/

/-- The flag bits an ALU instruction leaves undefined, bit n for flag n (R37, R131; entry 11). -/
opaque Config.freeFlags : Nat → Word

/-- The result of a shift by 16 or more under `SHIFT_OVER = draw` (R150; entry 12). -/
opaque Config.freeShift : Nat → Word

/-- A RAM word nothing has written, under `UNWRITTEN = draw` (R36; entry 5). -/
opaque Config.freeRam : Nat → Word

/-- What the environment presents on an input port, where the state's `inputs` says nothing more (R58; entry 13). -/
opaque Config.freeInput : Nat → PortId → Word

/-- The clock cycles that `STL` with argument `a`, begun at clock `n`, takes (R341; entry 16). -/
opaque Config.stlClocks : Word → Nat → Nat

/-- `GFX_COLOR_BITS`: the palette index that ILF-GFX takes from a 16-bit colour (R273, decision D37; entry 27). -/
opaque Config.gfxColorIndex : Word → BitVec 4

/-- The width of the display in pixels, which the source does not state (R273; entry 27). -/
opaque Config.gfxWidth : Nat

/-- The height of the display in pixels, which the source does not state (R273; entry 27). -/
opaque Config.gfxHeight : Nat

/-- The width and height of a screen, which every model of the display takes as parameters (R273). -/
structure Screen where
  width  : Nat
  height : Nat
deriving DecidableEq, Repr

/-- The screen of the display. -/
def Config.gfxScreen : Screen := { width := Config.gfxWidth, height := Config.gfxHeight }

end Sys2Proof
end

