-- ==== Sys2Proof/Syntax.lean ====
section
/-! DEFINITION. The instructions of the ILF-16: one constructor per row of spec/opcode_table.json (30_encoding.md R90), with the operand forms of R84. -/

namespace Sys2Proof

/-- The one argument A of an instruction with argument count 1: forms F1I and F1R (R84). -/
inductive Arg where
  /-- F1I: a 16-bit immediate. -/
  | imm (a : BitVec 16)
  /-- F1R: a register. -/
  | reg (a : RegId)
deriving DecidableEq, Repr

/-- The two arguments A and B of an instruction with argument count 2: forms F2II, F2RI, F2IR, F2RR (R84). -/
inductive Args where
  /-- F2II: two 8-bit immediates. -/
  | immImm (a b : BitVec 8)
  /-- F2RI: A a register, B a 12-bit immediate. -/
  | regImm (a : RegId) (b : BitVec 12)
  /-- F2IR: A a 12-bit immediate, B a register. -/
  | immReg (a : BitVec 12) (b : RegId)
  /-- F2RR: two registers. -/
  | regReg (a b : RegId)
deriving DecidableEq, Repr

/-- The arguments of a set instruction, which admits both counts (R93, R210). -/
inductive SetArgs where
  /-- One argument: B is 0. -/
  | one (a : Arg)
  /-- Two arguments. -/
  | two (ab : Args)
deriving DecidableEq, Repr

/-- The instructions, in the table's order. `d` is the D field, `a` the argument A, `ab` the arguments A and B. The bits
the source calls ignored (R88) are no part of an instruction. -/
inductive Instr where
  /-- `NOP`, identifier 0x00: Do nothing (takes 4 cycles) (R120). -/
  | nop
  /-- `STL`, identifier 0x04: Do nothing for A clock cycles (not CPU cycle) (R121). -/
  | stl (a : Arg)
  /-- `HLT`, identifier 0x08: Stop the CPU until restart (R122). -/
  | hlt
  /-- `ADD`, identifier 0x10: $D = A + B (R132). -/
  | add (d : RegId) (ab : Args)
  /-- `SUB`, identifier 0x11: $D = A - B (R133). -/
  | sub (d : RegId) (ab : Args)
  /-- `RSHIFT`, identifier 0x12: $D = A >> B (R134). -/
  | rshift (d : RegId) (ab : Args)
  /-- `LSHIFT`, identifier 0x13: $D = A << B (R135). -/
  | lshift (d : RegId) (ab : Args)
  /-- `MUL`, identifier 0x14: $D = A * B (unsigned, result is lower 16 bits) (R136). -/
  | mul (d : RegId) (ab : Args)
  /-- `SMUL`, identifier 0x15: $D = A * B (signed, result is lower 16 bits) (R137). -/
  | smul (d : RegId) (ab : Args)
  /-- `UMUL`, identifier 0x16: $D = A * B (unsigned, result is upper 16 bits) (R138). -/
  | umul (d : RegId) (ab : Args)
  /-- `SUMUL`, identifier 0x17: $D = A * B (signed, result is upper 16 bits) (R139). -/
  | sumul (d : RegId) (ab : Args)
  /-- `PASS`, identifier 0x18: $D = A (R140). -/
  | pass (d : RegId) (a : Arg)
  /-- `NOT`, identifier 0x19: $D = ~A (R141). -/
  | not (d : RegId) (a : Arg)
  /-- `AND`, identifier 0x1A: $D = A & B (R142). -/
  | and (d : RegId) (ab : Args)
  /-- `OR`, identifier 0x1B: $D = A | B (R143). -/
  | or (d : RegId) (ab : Args)
  /-- `XOR`, identifier 0x1C: $D = A ^ B (R144). -/
  | xor (d : RegId) (ab : Args)
  /-- `NAND`, identifier 0x1D: $D = ~(A & B) (R145). -/
  | nand (d : RegId) (ab : Args)
  /-- `NOR`, identifier 0x1E: $D = ~(A | B) (R146). -/
  | nor (d : RegId) (ab : Args)
  /-- `XNOR`, identifier 0x1F: $D = ~(A ^ B) (R147). -/
  | xnor (d : RegId) (ab : Args)
  /-- `BGT`, identifier 0x20: Branch to A if greater than (unsigned) (R171). -/
  | bgt (a : Arg)
  /-- `BLT`, identifier 0x21: Branch to A if less than (unsigned) (R172). -/
  | blt (a : Arg)
  /-- `BSGT`, identifier 0x22: Branch to A if greater than (signed) (R173). -/
  | bsgt (a : Arg)
  /-- `BSLT`, identifier 0x23: Branch to A if less than (signed) (R174). -/
  | bslt (a : Arg)
  /-- `BEQ`, identifier 0x24: Branch to A if equal (R175). -/
  | beq (a : Arg)
  /-- `BZ`, identifier 0x25: Branch to A if zero (R176). -/
  | bz (a : Arg)
  /-- `BNEG`, identifier 0x26: Branch to A if negative (R177). -/
  | bneg (a : Arg)
  /-- `BPOS`, identifier 0x27: Branch to A if positive (R178). -/
  | bpos (a : Arg)
  /-- `BEV`, identifier 0x28: Branch to A if even (R179). -/
  | bev (a : Arg)
  /-- `BBEV`, identifier 0x29: Branch to A if bitwise even (R180). -/
  | bbev (a : Arg)
  /-- `BC`, identifier 0x2A: Branch to A if carry/borrow (R181). -/
  | bc (a : Arg)
  /-- `BOF`, identifier 0x2B: Branch to A if overflow (R182). -/
  | bof (a : Arg)
  /-- Reserved identifier 0x2C. `rest` is bits 23:0, none of which the source calls ignored (R91). -/
  | reserved2C (rest : BitVec 24)
  /-- Reserved identifier 0x2D. `rest` is bits 23:0, none of which the source calls ignored (R91). -/
  | reserved2D (rest : BitVec 24)
  /-- Reserved identifier 0x2E. `rest` is bits 23:0, none of which the source calls ignored (R91). -/
  | reserved2E (rest : BitVec 24)
  /-- `BRN`, identifier 0x2F: Branch to A (R183). -/
  | brn (a : Arg)
  /-- `BLE`, identifier 0x30: Branch to A if less than or equal (unsigned) (R184). -/
  | ble (a : Arg)
  /-- `BGE`, identifier 0x31: Branch to A if greater than or equal (unsigned) (R185). -/
  | bge (a : Arg)
  /-- `BSLE`, identifier 0x32: Branch to A if less than or equal (signed) (R186). -/
  | bsle (a : Arg)
  /-- `BSGE`, identifier 0x33: Branch to A if greater than or equal (signed) (R187). -/
  | bsge (a : Arg)
  /-- `BNEQ`, identifier 0x34: Branch to A if not equal (R188). -/
  | bneq (a : Arg)
  /-- `BNZ`, identifier 0x35: Branch to A if not zero (R189). -/
  | bnz (a : Arg)
  /-- `BPOSZ`, identifier 0x36: Branch to A if positive or zero (R190). -/
  | bposz (a : Arg)
  /-- `BNEGZ`, identifier 0x37: Branch to A if negative or zero (R191). -/
  | bnegz (a : Arg)
  /-- `BOD`, identifier 0x38: Branch to A if odd (R192). -/
  | bod (a : Arg)
  /-- `BBOD`, identifier 0x39: Branch to A if bitwise odd (R193). -/
  | bbod (a : Arg)
  /-- `BNC`, identifier 0x3A: Branch to A if not carry/borrow (R194). -/
  | bnc (a : Arg)
  /-- `BNOF`, identifier 0x3B: Branch to A if not overflow (R195). -/
  | bnof (a : Arg)
  /-- Reserved identifier 0x3C. `rest` is bits 23:0, none of which the source calls ignored (R91). -/
  | reserved3C (rest : BitVec 24)
  /-- Reserved identifier 0x3D. `rest` is bits 23:0, none of which the source calls ignored (R91). -/
  | reserved3D (rest : BitVec 24)
  /-- Reserved identifier 0x3E. `rest` is bits 23:0, none of which the source calls ignored (R91). -/
  | reserved3E (rest : BitVec 24)
  /-- Reserved identifier 0x3F. `rest` is bits 23:0, none of which the source calls ignored (R91). -/
  | reserved3F (rest : BitVec 24)
  /-- `SGT`, identifier 0x40: $D = A if greater than (unsigned) else B (R211). -/
  | sgt (d : RegId) (ab : SetArgs)
  /-- `SLT`, identifier 0x41: $D = A if less than (unsigned) else B (R212). -/
  | slt (d : RegId) (ab : SetArgs)
  /-- `SSGT`, identifier 0x42: $D = A if greater than (signed) else B (R213). -/
  | ssgt (d : RegId) (ab : SetArgs)
  /-- `SSLT`, identifier 0x43: $D = A if less than (signed) else B (R214). -/
  | sslt (d : RegId) (ab : SetArgs)
  /-- `SEQ`, identifier 0x44: $D = A if equal else B (R215). -/
  | seq (d : RegId) (ab : SetArgs)
  /-- `SZ`, identifier 0x45: $D = A if zero else B (R216). -/
  | sz (d : RegId) (ab : SetArgs)
  /-- `SNEG`, identifier 0x46: $D = A if negative else B (R217). -/
  | sneg (d : RegId) (ab : SetArgs)
  /-- `SPOS`, identifier 0x47: $D = A if positive else B (R218). -/
  | spos (d : RegId) (ab : SetArgs)
  /-- `SEV`, identifier 0x48: $D = A if even else B (R219). -/
  | sev (d : RegId) (ab : SetArgs)
  /-- `SBEV`, identifier 0x49: $D = A if bitwise even else B (R220). -/
  | sbev (d : RegId) (ab : SetArgs)
  /-- `SC`, identifier 0x4A: $D = A if carry/borrow else B (R221). -/
  | sc (d : RegId) (ab : SetArgs)
  /-- `SOF`, identifier 0x4B: $D = A if overflow else B (R222). -/
  | sof (d : RegId) (ab : SetArgs)
  /-- Reserved identifier 0x4C. `rest` is bits 23:0, none of which the source calls ignored (R91). -/
  | reserved4C (rest : BitVec 24)
  /-- Reserved identifier 0x4D. `rest` is bits 23:0, none of which the source calls ignored (R91). -/
  | reserved4D (rest : BitVec 24)
  /-- Reserved identifier 0x4E. `rest` is bits 23:0, none of which the source calls ignored (R91). -/
  | reserved4E (rest : BitVec 24)
  /-- `MOV`, identifier 0x4F: $D = A (this instruction is the same as LDI) (R223). -/
  | mov (d : RegId) (a : Arg)
  /-- `LDI`, identifier 0x4F: $D = A (this instruction is the same as MOV) (R224). -/
  | ldi (d : RegId) (a : Arg)
  /-- `SLE`, identifier 0x50: $D = A if less than or equal (unsigned) else B (R225). -/
  | sle (d : RegId) (ab : SetArgs)
  /-- `SGE`, identifier 0x51: $D = A if greater than or equal (unsigned) else B (R226). -/
  | sge (d : RegId) (ab : SetArgs)
  /-- `SSLE`, identifier 0x52: $D = A if less than or equal (signed) else B (R227). -/
  | ssle (d : RegId) (ab : SetArgs)
  /-- `SSGE`, identifier 0x53: $D = A if greater than or equal (signed) else B (R228). -/
  | ssge (d : RegId) (ab : SetArgs)
  /-- `SNEQ`, identifier 0x54: $D = A if not equal else B (R229). -/
  | sneq (d : RegId) (ab : SetArgs)
  /-- `SNZ`, identifier 0x55: $D = A if not zero else B (R230). -/
  | snz (d : RegId) (ab : SetArgs)
  /-- `SPOSZ`, identifier 0x56: $D = A if positive or zero else B (R231). -/
  | sposz (d : RegId) (ab : SetArgs)
  /-- `SNEGZ`, identifier 0x57: $D = A if negative or zero else B (R232). -/
  | snegz (d : RegId) (ab : SetArgs)
  /-- `SOD`, identifier 0x58: $D = A if odd else B (R233). -/
  | sod (d : RegId) (ab : SetArgs)
  /-- `SBOD`, identifier 0x59: $D = A if bitwise odd else B (R234). -/
  | sbod (d : RegId) (ab : SetArgs)
  /-- `SNC`, identifier 0x5A: $D = A if not carry/borrow else B (R235). -/
  | snc (d : RegId) (ab : SetArgs)
  /-- `SNOF`, identifier 0x5B: $D = A if not overflow else B (R236). -/
  | snof (d : RegId) (ab : SetArgs)
  /-- Reserved identifier 0x5C. `rest` is bits 23:0, none of which the source calls ignored (R91). -/
  | reserved5C (rest : BitVec 24)
  /-- Reserved identifier 0x5D. `rest` is bits 23:0, none of which the source calls ignored (R91). -/
  | reserved5D (rest : BitVec 24)
  /-- Reserved identifier 0x5E. `rest` is bits 23:0, none of which the source calls ignored (R91). -/
  | reserved5E (rest : BitVec 24)
  /-- Reserved identifier 0x5F. `rest` is bits 23:0, none of which the source calls ignored (R91). -/
  | reserved5F (rest : BitVec 24)
  /-- `LOD`, identifier 0xC0: $D = #A (R251). -/
  | lod (d : RegId) (a : Arg)
  /-- `STR`, identifier 0xC4: #A = $D (R252). -/
  | str (d : RegId) (a : Arg)
  /-- `IN`, identifier 0xC8: $D = %A (R253). -/
  | inPort (d : RegId) (a : Arg)
  /-- `OUT`, identifier 0xCC: %A = $D (R254). -/
  | outPort (d : RegId) (a : Arg)
  /-- `GFXSP`, identifier 0xD0: Set pixel at (x: A, y: B) to color $D (R270). -/
  | gfxsp (d : RegId) (ab : Args)
deriving DecidableEq, Repr

end Sys2Proof
end

