-- ==== Sys2Proof/WellFormed.lean ====
section
/-! DEFINITION. Which terms of Instr are instructions of the machine. The operand fields have exactly their widths (R84), so an immediate that does not fit (R96, R291) or a register above 15 cannot be written; what remains to check is the constructor. -/

namespace Sys2Proof

/-- The 14 identifiers the table marks Reserved: no instructions (R91, R97), and refused by an assembler (R291). -/
def Instr.isReserved : Instr → Bool
  | .reserved2C _ | .reserved2D _ | .reserved2E _ => true
  | .reserved3C _ | .reserved3D _ | .reserved3E _ | .reserved3F _ => true
  | .reserved4C _ | .reserved4D _ | .reserved4E _ => true
  | .reserved5C _ | .reserved5D _ | .reserved5E _ | .reserved5F _ => true
  | _ => false

/-- LDI is a second assembly name of the machine instruction MOV: nothing in the word says which name was written, and
the word decodes to MOV (R224, R94, decision D36; entry 22). -/
def Instr.isSecondName : Instr → Bool
  | .ldi _ _ => true
  | _ => false

/-- A machine instruction under the name its word decodes to. -/
abbrev Instr.WellFormed (i : Instr) : Prop :=
  i.isReserved = false ∧ i.isSecondName = false

end Sys2Proof
end

