-- ==== Sys2Proof/Decode.lean ====
section
/-! DEFINITION. Decoding, total on all 2^32 words and refusing by name (30_encoding.md R94), and the canonical encoding, its inverse (R96). -/

namespace Sys2Proof

/-- Why a word is no instruction: the reasons of `IllegalEncoding`, in the order R94 checks them. -/
inductive EncodingError where
  /-- The identifier is neither named nor Reserved (R92, decision D9). -/
  | unlistedIdentifier
  /-- `AA` is not admitted for the identifier (R93, decision D8). -/
  | argumentCount
  /-- D is not 0 on an instruction without destination (R89, decision D7). -/
  | destination
  /-- A padding bit is not 0 (R87, decision D6). -/
  | padding
deriving DecidableEq, Repr

/-- What decoding a word gives. A Reserved word gives its Reserved row, whose meaning is the fault of R91. -/
inductive Decoded where
  | instr (i : Instr)
  | illegal (reason : EncodingError)
deriving DecidableEq, Repr

/-! The fields of an instruction word (R81). -/

/-- `I`, bits 31:24. -/
def fieldI (w : InstrWord) : BitVec 8 := w.extractLsb' 24 8

/-- `AA`, bits 23:22. -/
def fieldAA (w : InstrWord) : BitVec 2 := w.extractLsb' 22 2

/-- `X`, bit 21: argument A is a register. -/
def fieldX (w : InstrWord) : Bool := w.getLsbD 21

/-- `Y`, bit 20: argument B is a register. -/
def fieldY (w : InstrWord) : Bool := w.getLsbD 20

/-- `D`, bits 19:16. -/
def fieldD (w : InstrWord) : BitVec 4 := w.extractLsb' 16 4

/-- The lower half, bits 15:0. -/
def fieldLower (w : InstrWord) : BitVec 16 := w.extractLsb' 0 16

/-! The operand forms of the lower half (R84), with the padding check of R87. -/

/-- The argument of a word with `AA = 1`: F1I or F1R, none where F1R has a padding bit set. -/
def decodeArg (x : Bool) (lower : BitVec 16) : Option Arg :=
  if x then
    if lower.extractLsb' 4 12 = 0 then some (.reg (lower.extractLsb' 0 4)) else none
  else some (.imm lower)

/-- The arguments of a word with `AA = 2`: F2II, F2RI, F2IR or F2RR, none where F2RR has a padding bit set. -/
def decodeArgs (x y : Bool) (lower : BitVec 16) : Option Args :=
  match x, y with
  | false, false => some (.immImm (lower.extractLsb' 8 8) (lower.extractLsb' 0 8))
  | true, false => some (.regImm (lower.extractLsb' 12 4) (lower.extractLsb' 0 12))
  | false, true => some (.immReg (lower.extractLsb' 4 12) (lower.extractLsb' 0 4))
  | true, true =>
    if lower.extractLsb' 12 4 = 0 ∧ lower.extractLsb' 4 4 = 0 then
      some (.regReg (lower.extractLsb' 8 4) (lower.extractLsb' 0 4))
    else none

/-- The arguments of a set instruction, whose `AA` is 1 or 2. -/
def decodeSetArgs (aa : BitVec 2) (x y : Bool) (lower : BitVec 16) : Option SetArgs :=
  if aa = 1 then (decodeArg x lower).map .one else (decodeArgs x y lower).map .two

/-- Step 6 of R94: no form fits but for its padding. -/
def orPadding : Option Instr → Decoded
  | some i => .instr i
  | none => .illegal .padding

/-! Steps 3 to 7 of R94 for each class of identifiers. -/

/-- No argument and no destination: NOP, HLT. -/
def decodeF0 (aa : BitVec 2) (d : BitVec 4) (i : Instr) : Decoded :=
  if aa ≠ 0 then .illegal .argumentCount
  else if d ≠ 0 then .illegal .destination
  else .instr i

/-- One argument and no destination: STL and the branches. -/
def decodeBare (aa : BitVec 2) (x : Bool) (d : BitVec 4) (lower : BitVec 16) (mk : Arg → Instr) : Decoded :=
  if aa ≠ 1 then .illegal .argumentCount
  else if d ≠ 0 then .illegal .destination
  else orPadding ((decodeArg x lower).map mk)

/-- One argument and D: PASS, NOT, MOV, LOD, STR, IN, OUT. -/
def decodeOne (aa : BitVec 2) (x : Bool) (lower : BitVec 16) (mk : Arg → Instr) : Decoded :=
  if aa ≠ 1 then .illegal .argumentCount else orPadding ((decodeArg x lower).map mk)

/-- Two arguments and D: the other ALU instructions, GFXSP. -/
def decodeTwo (aa : BitVec 2) (x y : Bool) (lower : BitVec 16) (mk : Args → Instr) : Decoded :=
  if aa ≠ 2 then .illegal .argumentCount else orPadding ((decodeArgs x y lower).map mk)

/-- One or two arguments and D: the set instructions. -/
def decodeOneOrTwo (aa : BitVec 2) (x y : Bool) (lower : BitVec 16) (mk : SetArgs → Instr) : Decoded :=
  if aa ≠ 1 ∧ aa ≠ 2 then .illegal .argumentCount else orPadding ((decodeSetArgs aa x y lower).map mk)

/-- The identifier map (R90), steps 1, 2 and 7 of R94. 0x4F decodes to MOV. -/
def decodeFields (I : BitVec 8) (aa : BitVec 2) (x y : Bool) (d : BitVec 4) (lower : BitVec 16) : Decoded :=
  match I with
  | 0x00#8 => decodeF0 aa d .nop
  | 0x04#8 => decodeBare aa x d lower .stl
  | 0x08#8 => decodeF0 aa d .hlt
  | 0x10#8 => decodeTwo aa x y lower (.add d)
  | 0x11#8 => decodeTwo aa x y lower (.sub d)
  | 0x12#8 => decodeTwo aa x y lower (.rshift d)
  | 0x13#8 => decodeTwo aa x y lower (.lshift d)
  | 0x14#8 => decodeTwo aa x y lower (.mul d)
  | 0x15#8 => decodeTwo aa x y lower (.smul d)
  | 0x16#8 => decodeTwo aa x y lower (.umul d)
  | 0x17#8 => decodeTwo aa x y lower (.sumul d)
  | 0x18#8 => decodeOne aa x lower (.pass d)
  | 0x19#8 => decodeOne aa x lower (.not d)
  | 0x1A#8 => decodeTwo aa x y lower (.and d)
  | 0x1B#8 => decodeTwo aa x y lower (.or d)
  | 0x1C#8 => decodeTwo aa x y lower (.xor d)
  | 0x1D#8 => decodeTwo aa x y lower (.nand d)
  | 0x1E#8 => decodeTwo aa x y lower (.nor d)
  | 0x1F#8 => decodeTwo aa x y lower (.xnor d)
  | 0x20#8 => decodeBare aa x d lower .bgt
  | 0x21#8 => decodeBare aa x d lower .blt
  | 0x22#8 => decodeBare aa x d lower .bsgt
  | 0x23#8 => decodeBare aa x d lower .bslt
  | 0x24#8 => decodeBare aa x d lower .beq
  | 0x25#8 => decodeBare aa x d lower .bz
  | 0x26#8 => decodeBare aa x d lower .bneg
  | 0x27#8 => decodeBare aa x d lower .bpos
  | 0x28#8 => decodeBare aa x d lower .bev
  | 0x29#8 => decodeBare aa x d lower .bbev
  | 0x2A#8 => decodeBare aa x d lower .bc
  | 0x2B#8 => decodeBare aa x d lower .bof
  | 0x2C#8 => .instr (.reserved2C (aa ++ BitVec.ofBool x ++ BitVec.ofBool y ++ d ++ lower))
  | 0x2D#8 => .instr (.reserved2D (aa ++ BitVec.ofBool x ++ BitVec.ofBool y ++ d ++ lower))
  | 0x2E#8 => .instr (.reserved2E (aa ++ BitVec.ofBool x ++ BitVec.ofBool y ++ d ++ lower))
  | 0x2F#8 => decodeBare aa x d lower .brn
  | 0x30#8 => decodeBare aa x d lower .ble
  | 0x31#8 => decodeBare aa x d lower .bge
  | 0x32#8 => decodeBare aa x d lower .bsle
  | 0x33#8 => decodeBare aa x d lower .bsge
  | 0x34#8 => decodeBare aa x d lower .bneq
  | 0x35#8 => decodeBare aa x d lower .bnz
  | 0x36#8 => decodeBare aa x d lower .bposz
  | 0x37#8 => decodeBare aa x d lower .bnegz
  | 0x38#8 => decodeBare aa x d lower .bod
  | 0x39#8 => decodeBare aa x d lower .bbod
  | 0x3A#8 => decodeBare aa x d lower .bnc
  | 0x3B#8 => decodeBare aa x d lower .bnof
  | 0x3C#8 => .instr (.reserved3C (aa ++ BitVec.ofBool x ++ BitVec.ofBool y ++ d ++ lower))
  | 0x3D#8 => .instr (.reserved3D (aa ++ BitVec.ofBool x ++ BitVec.ofBool y ++ d ++ lower))
  | 0x3E#8 => .instr (.reserved3E (aa ++ BitVec.ofBool x ++ BitVec.ofBool y ++ d ++ lower))
  | 0x3F#8 => .instr (.reserved3F (aa ++ BitVec.ofBool x ++ BitVec.ofBool y ++ d ++ lower))
  | 0x40#8 => decodeOneOrTwo aa x y lower (.sgt d)
  | 0x41#8 => decodeOneOrTwo aa x y lower (.slt d)
  | 0x42#8 => decodeOneOrTwo aa x y lower (.ssgt d)
  | 0x43#8 => decodeOneOrTwo aa x y lower (.sslt d)
  | 0x44#8 => decodeOneOrTwo aa x y lower (.seq d)
  | 0x45#8 => decodeOneOrTwo aa x y lower (.sz d)
  | 0x46#8 => decodeOneOrTwo aa x y lower (.sneg d)
  | 0x47#8 => decodeOneOrTwo aa x y lower (.spos d)
  | 0x48#8 => decodeOneOrTwo aa x y lower (.sev d)
  | 0x49#8 => decodeOneOrTwo aa x y lower (.sbev d)
  | 0x4A#8 => decodeOneOrTwo aa x y lower (.sc d)
  | 0x4B#8 => decodeOneOrTwo aa x y lower (.sof d)
  | 0x4C#8 => .instr (.reserved4C (aa ++ BitVec.ofBool x ++ BitVec.ofBool y ++ d ++ lower))
  | 0x4D#8 => .instr (.reserved4D (aa ++ BitVec.ofBool x ++ BitVec.ofBool y ++ d ++ lower))
  | 0x4E#8 => .instr (.reserved4E (aa ++ BitVec.ofBool x ++ BitVec.ofBool y ++ d ++ lower))
  | 0x4F#8 => decodeOne aa x lower (.mov d)
  | 0x50#8 => decodeOneOrTwo aa x y lower (.sle d)
  | 0x51#8 => decodeOneOrTwo aa x y lower (.sge d)
  | 0x52#8 => decodeOneOrTwo aa x y lower (.ssle d)
  | 0x53#8 => decodeOneOrTwo aa x y lower (.ssge d)
  | 0x54#8 => decodeOneOrTwo aa x y lower (.sneq d)
  | 0x55#8 => decodeOneOrTwo aa x y lower (.snz d)
  | 0x56#8 => decodeOneOrTwo aa x y lower (.sposz d)
  | 0x57#8 => decodeOneOrTwo aa x y lower (.snegz d)
  | 0x58#8 => decodeOneOrTwo aa x y lower (.sod d)
  | 0x59#8 => decodeOneOrTwo aa x y lower (.sbod d)
  | 0x5A#8 => decodeOneOrTwo aa x y lower (.snc d)
  | 0x5B#8 => decodeOneOrTwo aa x y lower (.snof d)
  | 0x5C#8 => .instr (.reserved5C (aa ++ BitVec.ofBool x ++ BitVec.ofBool y ++ d ++ lower))
  | 0x5D#8 => .instr (.reserved5D (aa ++ BitVec.ofBool x ++ BitVec.ofBool y ++ d ++ lower))
  | 0x5E#8 => .instr (.reserved5E (aa ++ BitVec.ofBool x ++ BitVec.ofBool y ++ d ++ lower))
  | 0x5F#8 => .instr (.reserved5F (aa ++ BitVec.ofBool x ++ BitVec.ofBool y ++ d ++ lower))
  | 0xC0#8 => decodeOne aa x lower (.lod d)
  | 0xC4#8 => decodeOne aa x lower (.str d)
  | 0xC8#8 => decodeOne aa x lower (.inPort d)
  | 0xCC#8 => decodeOne aa x lower (.outPort d)
  | 0xD0#8 => decodeTwo aa x y lower (.gfxsp d)
  | _ => .illegal .unlistedIdentifier

/-- Decoding of an instruction word (R94). -/
def decode (w : InstrWord) : Decoded :=
  decodeFields (fieldI w) (fieldAA w) (fieldX w) (fieldY w) (fieldD w) (fieldLower w)

/-! The canonical encoding (R96): ignored and padding bits are 0. -/

/-- A word from its six fields (R81): `IIIIIIIIAAXYDDDD` and the lower half. -/
def packFields (I : BitVec 8) (aa : BitVec 2) (x y : Bool) (d : BitVec 4) (lower : BitVec 16) : InstrWord :=
  I ++ aa ++ BitVec.ofBool x ++ BitVec.ofBool y ++ d ++ lower

/-- A word of form F0. -/
def encodeF0 (I : BitVec 8) : InstrWord := packFields I 0 false false 0 0

/-- A word with one argument: F1I or F1R. -/
def encodeOne (I : BitVec 8) (d : BitVec 4) : Arg → InstrWord
  | .imm a => packFields I 1 false false d a
  | .reg a => packFields I 1 true false d (0#12 ++ a)

/-- A word with two arguments: F2II, F2RI, F2IR or F2RR. -/
def encodeTwo (I : BitVec 8) (d : BitVec 4) : Args → InstrWord
  | .immImm a b => packFields I 2 false false d (a ++ b)
  | .regImm a b => packFields I 2 true false d (a ++ b)
  | .immReg a b => packFields I 2 false true d (a ++ b)
  | .regReg a b => packFields I 2 true true d (0#4 ++ a ++ 0#4 ++ b)

/-- A word of a set instruction. -/
def encodeSet (I : BitVec 8) (d : BitVec 4) : SetArgs → InstrWord
  | .one a => encodeOne I d a
  | .two ab => encodeTwo I d ab

/-- The canonical word of an instruction. -/
def encode (i : Instr) : InstrWord :=
  match i with
  | .nop => encodeF0 0x00#8
  | .stl a => encodeOne 0x04#8 0 a
  | .hlt => encodeF0 0x08#8
  | .add d ab => encodeTwo 0x10#8 d ab
  | .sub d ab => encodeTwo 0x11#8 d ab
  | .rshift d ab => encodeTwo 0x12#8 d ab
  | .lshift d ab => encodeTwo 0x13#8 d ab
  | .mul d ab => encodeTwo 0x14#8 d ab
  | .smul d ab => encodeTwo 0x15#8 d ab
  | .umul d ab => encodeTwo 0x16#8 d ab
  | .sumul d ab => encodeTwo 0x17#8 d ab
  | .pass d a => encodeOne 0x18#8 d a
  | .not d a => encodeOne 0x19#8 d a
  | .and d ab => encodeTwo 0x1A#8 d ab
  | .or d ab => encodeTwo 0x1B#8 d ab
  | .xor d ab => encodeTwo 0x1C#8 d ab
  | .nand d ab => encodeTwo 0x1D#8 d ab
  | .nor d ab => encodeTwo 0x1E#8 d ab
  | .xnor d ab => encodeTwo 0x1F#8 d ab
  | .bgt a => encodeOne 0x20#8 0 a
  | .blt a => encodeOne 0x21#8 0 a
  | .bsgt a => encodeOne 0x22#8 0 a
  | .bslt a => encodeOne 0x23#8 0 a
  | .beq a => encodeOne 0x24#8 0 a
  | .bz a => encodeOne 0x25#8 0 a
  | .bneg a => encodeOne 0x26#8 0 a
  | .bpos a => encodeOne 0x27#8 0 a
  | .bev a => encodeOne 0x28#8 0 a
  | .bbev a => encodeOne 0x29#8 0 a
  | .bc a => encodeOne 0x2A#8 0 a
  | .bof a => encodeOne 0x2B#8 0 a
  | .reserved2C rest => 0x2C#8 ++ rest
  | .reserved2D rest => 0x2D#8 ++ rest
  | .reserved2E rest => 0x2E#8 ++ rest
  | .brn a => encodeOne 0x2F#8 0 a
  | .ble a => encodeOne 0x30#8 0 a
  | .bge a => encodeOne 0x31#8 0 a
  | .bsle a => encodeOne 0x32#8 0 a
  | .bsge a => encodeOne 0x33#8 0 a
  | .bneq a => encodeOne 0x34#8 0 a
  | .bnz a => encodeOne 0x35#8 0 a
  | .bposz a => encodeOne 0x36#8 0 a
  | .bnegz a => encodeOne 0x37#8 0 a
  | .bod a => encodeOne 0x38#8 0 a
  | .bbod a => encodeOne 0x39#8 0 a
  | .bnc a => encodeOne 0x3A#8 0 a
  | .bnof a => encodeOne 0x3B#8 0 a
  | .reserved3C rest => 0x3C#8 ++ rest
  | .reserved3D rest => 0x3D#8 ++ rest
  | .reserved3E rest => 0x3E#8 ++ rest
  | .reserved3F rest => 0x3F#8 ++ rest
  | .sgt d ab => encodeSet 0x40#8 d ab
  | .slt d ab => encodeSet 0x41#8 d ab
  | .ssgt d ab => encodeSet 0x42#8 d ab
  | .sslt d ab => encodeSet 0x43#8 d ab
  | .seq d ab => encodeSet 0x44#8 d ab
  | .sz d ab => encodeSet 0x45#8 d ab
  | .sneg d ab => encodeSet 0x46#8 d ab
  | .spos d ab => encodeSet 0x47#8 d ab
  | .sev d ab => encodeSet 0x48#8 d ab
  | .sbev d ab => encodeSet 0x49#8 d ab
  | .sc d ab => encodeSet 0x4A#8 d ab
  | .sof d ab => encodeSet 0x4B#8 d ab
  | .reserved4C rest => 0x4C#8 ++ rest
  | .reserved4D rest => 0x4D#8 ++ rest
  | .reserved4E rest => 0x4E#8 ++ rest
  | .mov d a => encodeOne 0x4F#8 d a
  | .ldi d a => encodeOne 0x4F#8 d a
  | .sle d ab => encodeSet 0x50#8 d ab
  | .sge d ab => encodeSet 0x51#8 d ab
  | .ssle d ab => encodeSet 0x52#8 d ab
  | .ssge d ab => encodeSet 0x53#8 d ab
  | .sneq d ab => encodeSet 0x54#8 d ab
  | .snz d ab => encodeSet 0x55#8 d ab
  | .sposz d ab => encodeSet 0x56#8 d ab
  | .snegz d ab => encodeSet 0x57#8 d ab
  | .sod d ab => encodeSet 0x58#8 d ab
  | .sbod d ab => encodeSet 0x59#8 d ab
  | .snc d ab => encodeSet 0x5A#8 d ab
  | .snof d ab => encodeSet 0x5B#8 d ab
  | .reserved5C rest => 0x5C#8 ++ rest
  | .reserved5D rest => 0x5D#8 ++ rest
  | .reserved5E rest => 0x5E#8 ++ rest
  | .reserved5F rest => 0x5F#8 ++ rest
  | .lod d a => encodeOne 0xC0#8 d a
  | .str d a => encodeOne 0xC4#8 d a
  | .inPort d a => encodeOne 0xC8#8 d a
  | .outPort d a => encodeOne 0xCC#8 d a
  | .gfxsp d ab => encodeTwo 0xD0#8 d ab

/-- The bits the source calls ignored in a word with this `AA` (R88): X, Y and the lower half without arguments, Y with
one argument. A word with a Reserved identifier is no instruction and has none. -/
def ignoredBits (aa : BitVec 2) : InstrWord :=
  if aa = 0 then 0x0030FFFF#32 else if aa = 1 then 0x00100000#32 else 0

/-- The word with its ignored bits cleared. -/
def canonicalWord (w : InstrWord) : InstrWord := w &&& ~~~ ignoredBits (fieldAA w)

/-- The instruction in an instruction whose low `nbits` bits are those of `w` and whose other bits are 0, as
spec/opcode_table.json numbers them: an instruction is one 32-bit entry, bit 0 its least significant bit (R97). -/
def decodeTableWord (nbits w : Nat) : Option Instr :=
  match decode (BitVec.ofNat 32 (w % 2 ^ nbits)) with
  | .instr i => some i
  | .illegal _ => none

end Sys2Proof
end

