-- ==== Sys2Proof/Machine/State.lean ====
section
/-! DEFINITION. The state of the ILF-16 (10_state.md), why a step can stop (60_exceptions.md R303 to R308), and the machine right after reset (R35). -/

namespace Sys2Proof.Machine

/-- The run state of the CPU (R33). -/
inductive RunState where
  /-- Powered, images loaded, executing nothing until Button 2 is pressed. -/
  | notStarted
  /-- Executes one instruction after another. -/
  | running
  /-- HLT has been executed: nothing further executes until a reset. -/
  | halted
deriving DecidableEq, Repr

/-- The flags of FLAGS that an instruction tests, from bit 0 up (R26). Bits 12 to 14 are "Not Available (always 0)" and
bit 15 is "True". -/
inductive Flag where
  | gt | lt | sgt | slt | eq | z | s | pos | p | bp | c | of
deriving DecidableEq, Repr

/-- An event of the run's history, in program order (R32, R60). -/
inductive Event where
  /-- `Out(n, v)`: OUT set output port `n` to `v` (R59). -/
  | out (n : PortId) (v : Word)
  /-- `Gfx(x, y, c)`: GFXSP sent a set-pixel request (45_gfx.md R271). -/
  | gfx (x y c : Word)
deriving DecidableEq, Repr

/-- What the operator does before a step (70_reset_and_hazards.md R330, R337). DESIGN CHOICE (entry 8): every action lands
between two instructions and takes a step of its own, except `idle`, which is no action. -/
inductive OperatorAction where
  /-- No button is pressed: the CPU has this step. -/
  | idle
  /-- Button 1: clears a buffer no instruction reads. -/
  | button1
  /-- Button 2: starts a CPU that has not started. -/
  | button2
  /-- Button 3 is held for this step: the CPU stops in its current state. -/
  | button3
  /-- The one reset event, which is also the restart. -/
  | reset
deriving DecidableEq, Repr

/-- The instruction ROM's image `PROGRAM`: instruction address and entry (R31, 20_memory.md R56). -/
abbrev Rom := List (Nat × InstrWord)

/-- The RAM: word address and 16-bit word (R31, 20_memory.md R51). An address that is not listed holds no value (entry 5). -/
abbrev Ram := List (Nat × Word)

/-- The state of the machine. The fields from `cfg` on are the model's own. -/
structure State where
  /-- R1 to R15; register 0 has no storage (R21, R22). -/
  regs      : Vector Word 15
  /-- The address of the instruction to execute (R24). -/
  pc        : Word
  /-- FLAGS, bit n for flag n (R26). -/
  flags     : Word
  runState  : RunState
  ram       : Ram
  rom       : Rom
  /-- `RAM_IMAGE`, which a reset puts back into the RAM (20_memory.md R65). -/
  ramImage  : Ram
  /-- The latches `out[0]` to `out[15]` (R32). -/
  outPorts  : Vector Word 16
  /-- The event history, oldest first (R32). -/
  events    : List Event
  /-- The open parameters of 00_scope.md R5 (entry 6). -/
  cfg       : Config
  /-- What the environment presents to the coming INs, the next one first (entry 13). -/
  inputs    : List Word
  /-- What the operator does before the coming steps, the next one first (entry 8). -/
  operator  : List OperatorAction
  /-- How many draws have been made (entry 14). -/
  draws     : Nat
  /-- Clock cycles spent executing instructions (entry 16). -/
  clocks    : Nat
deriving DecidableEq, Repr

/-- The model faults of 60_exceptions.md R303 to R308, a closed list. Each says that the source does not define what
happens; the run has no final state and nothing follows about the chip (R8). All six are safe. -/
inductive Fault where
  /-- R303, raised by `step` when the fetched word is no instruction and not Reserved. Safe. -/
  | illegalEncoding (w : InstrWord) (reason : EncodingError)
  /-- R304, raised by the 14 Reserved rows, whose behaviour the source calls undefined. Safe. -/
  | reservedInstruction (I : BitVec 8)
  /-- R305, raised by `step` when the ROM has no entry at `pc`. Safe. -/
  | fetchOutOfRange (a : Word)
  /-- R306, raised by LOD and STR at 8,192 and above under `RAM_OOB = fault`. Safe. -/
  | ramOutOfRange (addr : Word)
  /-- R307, raised by IN and OUT at 16 and above under `PORT_OOB = fault`. Safe. -/
  | portOutOfRange (n : Word)
  /-- R308, raised by LOD of a RAM word that holds no value under `UNWRITTEN = fault`. Safe. -/
  | unwrittenRead (addr : Nat)
deriving DecidableEq, Repr

/-- Why the model has no meaning for an instruction. -/
inductive Refusal where
  /-- Raised by `exec` for an instruction without a meaning yet. Safe. No arm raises it. -/
  | notModelled (mnemonic : String)
deriving DecidableEq, Repr

/-- What one instruction or one step gives. -/
abbrev Result := Host.Outcome State Fault Refusal

/-- The machine right after a reset, with the images and parameters given (R35, R330). What R35 leaves unspecified is
named: registers 0x0000 (entry 2), FLAGS 0x8000 (entry 3), output latches 0x0000 (entry 4). -/
def State.resetWith (cfg : Config) (rom : Rom) (ramImage : Ram) : State where
  regs      := Vector.replicate 15 0x0000#16
  pc        := BitVec.ofNat 16 cfg.resetPc.val
  flags     := 0x8000#16
  runState  := .notStarted
  ram       := ramImage
  rom       := rom
  ramImage  := ramImage
  outPorts  := Vector.replicate 16 0x0000#16
  events    := []
  cfg       := cfg
  inputs    := []
  operator  := []
  draws     := 0
  clocks    := 0

/-- The machine right after reset, at the spec's default parameters and with no image loaded (entry 7). -/
def State.reset : State := State.resetWith Config.specDefault [] []

end Sys2Proof.Machine
end

