-- ==== Sys2Proof/Machine/Ops.lean ====
section
/-! DEFINITION. The named operations over registers, memories, ports, the program counter and the run state: the primitives of 00_scope.md R7. The hardware takes no exception and returns from none (60_exceptions.md R300, R311), so there is no such operation; a model fault is an outcome and changes nothing (R310). -/

namespace Sys2Proof.Machine

/-! Memories as lists of address and contents, in one canonical form. -/

/-- What a memory holds at an address; none where nothing is listed. -/
def Memory.read {α : Type} : List (Nat × α) → Nat → Option α
  | [], _ => none
  | (k, v) :: rest, a => if k = a then some v else Memory.read rest a

/-- The memory with `v` at `a`. -/
def Memory.write {α : Type} : List (Nat × α) → Nat → α → List (Nat × α)
  | [], a, v => [(a, v)]
  | (k, w) :: rest, a, v =>
    if a < k then (a, v) :: (k, w) :: rest
    else if a = k then (a, v) :: rest
    else (k, w) :: Memory.write rest a v

/-- Addresses rise strictly from `low` on and stay below `bound`. -/
def Memory.risesFrom {α : Type} (bound : Nat) : Nat → List (Nat × α) → Bool
  | _, [] => true
  | low, (k, _) :: rest => decide (low ≤ k) && decide (k < bound) && Memory.risesFrom bound (k + 1) rest

/-- The canonical form: addresses strictly rising, each below `bound`. An unlisted address has no value, so there is no
entry equal to what an unlisted address reads as. -/
def Memory.wf {α : Type} (bound : Nat) (cells : List (Nat × α)) : Bool :=
  Memory.risesFrom bound 0 cells

/-- A memory that holds `vs` at the addresses from `a` on, for the images of R334. -/
def Memory.ofList {α : Type} : Nat → List α → List (Nat × α)
  | _, [] => []
  | a, v :: vs => (a, v) :: Memory.ofList (a + 1) vs

/-! Registers (10_state.md R21, R22). -/

/-- `x[r]`: register 0 is always 0. -/
def State.reg (s : State) (r : RegId) : Word :=
  if r = 0 then 0 else s.regs[r.toNat - 1]'(by have := r.isLt; omega)

/-- `x[r] <- v`: a write to register 0 is discarded. -/
def State.setReg (s : State) (r : RegId) (v : Word) : State :=
  if r = 0 then s
  else { s with regs := s.regs.set (r.toNat - 1) v (by have := r.isLt; omega) }

/-! FLAGS (R26). -/

/-- The number of a flag's bit (R26). -/
def Flag.bit : Flag → Nat
  | .gt => 0
  | .lt => 1
  | .sgt => 2
  | .slt => 3
  | .eq => 4
  | .z => 5
  | .s => 6
  | .pos => 7
  | .p => 8
  | .bp => 9
  | .c => 10
  | .of => 11

/-- The flag `n` in a value of FLAGS. -/
def flagOf (f : Word) (n : Flag) : Bool := f.getLsbD n.bit

/-- `FLAGS[n]`. -/
def State.flag (s : State) (n : Flag) : Bool := flagOf s.flags n

/-! The program counter (R25) and the clock (70_reset_and_hazards.md R340). -/

/-- A target truncated to `PC_WIDTH` bits. -/
def truncPc (cfg : Config) (t : Word) : Word :=
  BitVec.ofNat 16 (t.toNat % 2 ^ cfg.pcWidth.bits)

/-- `(pc + 1) mod 2^PC_WIDTH`. -/
def nextPc (cfg : Config) (pc : Word) : Word :=
  BitVec.ofNat 16 ((pc.toNat + 1) % 2 ^ cfg.pcWidth.bits)

/-- The end of every instruction but a taken branch and HLT: the next instruction in sequence, one instruction time later. -/
def State.advance (s : State) : State :=
  { s with pc := nextPc s.cfg s.pc, clocks := s.clocks + clocksPerInstruction }

/-- The end of a taken branch (R170). -/
def State.jump (s : State) (t : Word) : State :=
  { s with pc := truncPc s.cfg t, clocks := s.clocks + clocksPerInstruction }

/-- `halt`: the run state becomes Halted and `pc` keeps the address of the HLT (40_control.md R122, decision D29). -/
def State.halt (s : State) : State :=
  { s with runState := .halted, clocks := s.clocks + clocksPerInstruction }

/-- The end of STL: the next instruction, after an open number of clocks (R341; entry 16). -/
def State.stall (s : State) (a : Word) : State :=
  { s with pc := nextPc s.cfg s.pc, clocks := s.clocks + Config.stlClocks a s.clocks }

/-! The instruction ROM (20_memory.md R56). -/

/-- `RomRead(pc)`: none beyond the ROM and where the program has no entry. -/
def State.fetch (s : State) : Option InstrWord :=
  if romEntries ≤ s.pc.toNat then none else Memory.read s.rom s.pc.toNat

/-! The RAM (R52, R53). -/

/-- The word the RAM holds at a word address; none where it holds no value. -/
def State.ramWord (s : State) (a : Nat) : Option Word := Memory.read s.ram a

/-- The RAM word an address names: `RAM_OOB` decides beyond the RAM, none for a fault. -/
def ramIndex (cfg : Config) (addr : Word) : Option Nat :=
  if addr.toNat < ramWords then some addr.toNat
  else match cfg.ramOob with
    | .fault => none
    | .wrap13 => some (addr.toNat % ramWords)

/-- The state with `v` at word address `a` of the RAM. -/
def State.putRam (s : State) (a : Nat) (v : Word) : State :=
  { s with ram := Memory.write s.ram a v }

/-- The read of RAM word `a`. A word that holds no value faults or is drawn, by `UNWRITTEN`; a drawn word is held from
then on (10_state.md R36). -/
def State.ramRead (s : State) (a : Nat) : Except Fault (Word × State) :=
  match s.ramWord a with
  | some v => .ok (v, s)
  | none => match s.cfg.unwritten with
    | .fault => .error (.unwrittenRead a)
    | .draw => .ok (Config.freeRam s.draws, { s.putRam a (Config.freeRam s.draws) with draws := s.draws + 1 })

/-- `MemRead(addr, 1)` (R52). -/
def State.memRead (s : State) (addr : Word) : Except Fault (Word × State) :=
  match ramIndex s.cfg addr with
  | none => .error (.ramOutOfRange addr)
  | some a => s.ramRead a

/-- `MemWrite(addr, 1, v)` (R53). -/
def State.memWrite (s : State) (addr v : Word) : Except Fault State :=
  match ramIndex s.cfg addr with
  | none => .error (.ramOutOfRange addr)
  | some a => .ok (s.putRam a v)

/-! The ports (R58, R59). -/

/-- The port a number names: `PORT_OOB` decides at 16 and above, none for a fault. -/
def portIndex (cfg : Config) (n : Word) : Option PortId :=
  if n.toNat < 16 then some (BitVec.ofNat 4 n.toNat)
  else match cfg.portOob with
    | .fault => none
    | .low4 => some (BitVec.ofNat 4 (n.toNat % 16))

/-- The level of output port `p`. -/
def State.outPort (s : State) (p : PortId) : Word :=
  s.outPorts[p.toNat]'(by have := p.isLt; omega)

/-- What the environment presents on input port `p` now, and the state after it was taken (entry 13). -/
def State.takeInput (s : State) (p : PortId) : Word × State :=
  match s.inputs with
  | v :: rest => (v, { s with inputs := rest })
  | [] => (Config.freeInput s.draws p, { s with draws := s.draws + 1 })

/-- `PortIn(n)` (R58). -/
def State.portIn (s : State) (n : Word) : Except Fault (Word × State) :=
  match portIndex s.cfg n with
  | none => .error (.portOutOfRange n)
  | some p => .ok (s.takeInput p)

/-- The state with output port `p` set to `v` and the event recorded. -/
def State.putPort (s : State) (p : PortId) (v : Word) : State :=
  { s with outPorts := s.outPorts.set p.toNat v (by have := p.isLt; omega), events := s.events ++ [.out p v] }

/-- `PortOut(n, v)` (R59). -/
def State.portOut (s : State) (n v : Word) : Except Fault State :=
  match portIndex s.cfg n with
  | none => .error (.portOutOfRange n)
  | some p => .ok (s.putPort p v)

/-- `GfxSend(x, y, c)` (45_gfx.md R271). -/
def State.gfxSend (s : State) (x y c : Word) : State :=
  { s with events := s.events ++ [.gfx x y c] }

/-! What the operator does (70_reset_and_hazards.md R330, R331, R337). -/

/-- The reset event: R35's table, with the images and parameters as they are. The model's own record of the environment
and of draws goes on (entry 9). -/
def State.restart (s : State) : State :=
  { State.resetWith s.cfg s.rom s.ramImage with
    inputs := s.inputs, operator := s.operator, draws := s.draws, clocks := s.clocks }

/-- The effect of an operator action (R33, R337). -/
def State.operate (s : State) : OperatorAction → State
  | .idle => s
  | .button1 => s
  | .button2 => match s.runState with
    | .notStarted => { s with runState := .running }
    | .running => s
    | .halted => s
  | .button3 => s
  | .reset => s.restart

/-! Outcomes. -/

/-- An operation that may fault, followed by the rest of an instruction. -/
def andThen {α : Type} (r : Except Fault α) (k : α → State) : Result :=
  match r with
  | .ok a => .next (k a)
  | .error f => .fault f

end Sys2Proof.Machine
end

