-- ==== Sys2Proof/Machine/Operands.lean ====
section
/-! DEFINITION. The 16-bit values of the arguments A and B (30_encoding.md R85, R86). -/

namespace Sys2Proof.Machine

/-- `ext16` of a short immediate, by `IMM_EXT` (R86). -/
def ext16 {n : Nat} (cfg : Config) (v : BitVec n) : Word :=
  match cfg.immExt with
  | .zero => v.setWidth 16
  | .sign => v.signExtend 16

/-- `val(A)` of a one-argument instruction. -/
def State.valArg (s : State) : Arg → Word
  | .imm a => a
  | .reg a => s.reg a

/-- `val(A)` of a two-argument instruction. -/
def State.valA (s : State) : Args → Word
  | .immImm a _ => ext16 s.cfg a
  | .regImm a _ => s.reg a
  | .immReg a _ => ext16 s.cfg a
  | .regReg a _ => s.reg a

/-- `val(B)` of a two-argument instruction. -/
def State.valB (s : State) : Args → Word
  | .immImm _ b => ext16 s.cfg b
  | .regImm _ b => ext16 s.cfg b
  | .immReg _ b => s.reg b
  | .regReg _ b => s.reg b

/-- `val(A)` of a set instruction. -/
def State.valSetA (s : State) : SetArgs → Word
  | .one a => s.valArg a
  | .two ab => s.valA ab

/-- `val(B)` of a set instruction, 0 if only one argument is provided (43_set.md R210). -/
def State.valSetB (s : State) : SetArgs → Word
  | .one _ => 0
  | .two ab => s.valB ab

end Sys2Proof.Machine
end

