-- ==== Sys2Proof/Machine/Flags.lean ====
section
/-! DEFINITION. The ALU: results (41_alu.md R132 to R147, R150) and flags (R131). -/

namespace Sys2Proof.Machine

/-- The operation of an ALU instruction 0x10 + n, in the order of n. -/
inductive AluOp where
  | add | sub | rshift | lshift | mul | smul | umul | sumul
  | pass | not | and | or | xor | nand | nor | xnor
deriving DecidableEq, Repr

/-- The result of a shift whose amount is 16 or more, by `SHIFT_OVER` (R150). `sh` shifts by an amount below 16. -/
def shiftOver (cfg : Config) (sh : Word → Nat → Word) (a b free : Word) : Word :=
  match cfg.shiftOver with
  | .draw => free
  | .zero => 0
  | .mod16 => sh a (b.toNat % 16)

/-- A shift of `a` by the full 16-bit amount `b`. -/
def shiftBy (cfg : Config) (sh : Word → Nat → Word) (a b free : Word) : Word :=
  if b.toNat < 16 then sh a b.toNat else shiftOver cfg sh a b free

/-- `floor(a / 2^n)` (R134). -/
def shiftRight (a : Word) (n : Nat) : Word := a >>> n

/-- `(a * 2^n) mod 2^16` (R135). -/
def shiftLeft (a : Word) (n : Nat) : Word := a <<< n

/-- The 32-bit product of two unsigned words (R136, R138). -/
def productU (a b : Word) : BitVec 32 := BitVec.ofNat 32 (a.toNat * b.toNat)

/-- The 32-bit two's complement product of two signed words (R137, R139). -/
def productS (a b : Word) : BitVec 32 := BitVec.ofInt 32 (a.toInt * b.toInt)

/-- `OP_n(a, b)`: the result `o`. `free` is what a shift by 16 or more draws. -/
def aluResult (cfg : Config) (op : AluOp) (a b free : Word) : Word :=
  match op with
  | .add => a + b
  | .sub => a - b
  | .rshift => shiftBy cfg shiftRight a b free
  | .lshift => shiftBy cfg shiftLeft a b free
  | .mul => (productU a b).extractLsb' 0 16
  | .smul => (productS a b).extractLsb' 0 16
  | .umul => (productU a b).extractLsb' 16 16
  | .sumul => (productS a b).extractLsb' 16 16
  | .pass => a
  | .not => ~~~a
  | .and => a &&& b
  | .or => a ||| b
  | .xor => a ^^^ b
  | .nand => ~~~(a &&& b)
  | .nor => ~~~(a ||| b)
  | .xnor => ~~~(a ^^^ b)

/-- `popcount(v)` of the low `n` bits (00_scope.md R6). -/
def popcountBelow (v : Word) : Nat → Nat
  | 0 => 0
  | n + 1 => popcountBelow v n + (v.getLsbD n).toNat

/-- `popcount(v)`. -/
def popcount (v : Word) : Nat := popcountBelow v 16

/-- Flag C (R131, decision D12): carry out of ADD; borrow or its inverse after SUB, by `SUB_C_SENSE`; a free bit after
every other operation (R37). -/
def carryFlag (cfg : Config) (op : AluOp) (a b : Word) (free : Bool) : Bool :=
  match op with
  | .add => decide (2 ^ 16 ≤ a.toNat + b.toNat)
  | .sub => match cfg.subCSense with
    | .borrow => decide (a.toNat < b.toNat)
    | .carry => decide (b.toNat ≤ a.toNat)
  | .rshift | .lshift | .mul | .smul | .umul | .sumul | .pass | .not
  | .and | .or | .xor | .nand | .nor | .xnor => free

/-- Flag OF (R131, decision D13): signed overflow of ADD and SUB; a free bit after every other operation (R37). -/
def overflowFlag (op : AluOp) (a b o : Word) (free : Bool) : Bool :=
  match op with
  | .add => (a.msb == b.msb) && (o.msb != a.msb)
  | .sub => (a.msb != b.msb) && (o.msb != a.msb)
  | .rshift | .lshift | .mul | .smul | .umul | .sumul | .pass | .not
  | .and | .or | .xor | .nand | .nor | .xnor => free

/-- Whether the five comparison flags are undefined: after PASS and NOT with `ONEARG_B = draw` (R37, R140, R141). -/
def comparisonFree (cfg : Config) (op : AluOp) : Bool :=
  match op with
  | .pass | .not => decide (cfg.oneArgB = .draw)
  | .add | .sub | .rshift | .lshift | .mul | .smul | .umul | .sumul
  | .and | .or | .xor | .nand | .nor | .xnor => false

/-- A comparison flag: `value`, or the free bit where it is undefined. -/
def comparisonFlag (cfg : Config) (op : AluOp) (value free : Bool) : Bool :=
  if comparisonFree cfg op then free else value

/-- `AluFlags(n, a, b, o)` (R131): the 16 bits loaded into FLAGS, from bit 0 up. The bits of `free` stand where a flag is
undefined. -/
def aluFlags (cfg : Config) (op : AluOp) (a b o free : Word) : Word :=
  BitVec.ofBoolListLE
    [ comparisonFlag cfg op (decide (b.toNat < a.toNat)) (flagOf free .gt)   -- GT
    , comparisonFlag cfg op (decide (a.toNat < b.toNat)) (flagOf free .lt)   -- LT
    , comparisonFlag cfg op (decide (b.toInt < a.toInt)) (flagOf free .sgt)   -- SGT
    , comparisonFlag cfg op (decide (a.toInt < b.toInt)) (flagOf free .slt)   -- SLT
    , comparisonFlag cfg op (decide (a = b)) (flagOf free .eq)               -- EQ
    , decide (o = 0)                                                        -- Z
    , o.msb                                                                 -- S
    , !o.msb && decide (o ≠ 0)                                              -- POS
    , !o.getLsbD 0                                                          -- P
    , decide (popcount o % 2 = 0)                                           -- BP
    , carryFlag cfg op a b (flagOf free .c)                                -- C
    , overflowFlag op a b o (flagOf free .of)                               -- OF
    , false, false, false                                                   -- always 0
    , true ]                                                                -- TR

/-- Whether an operation leaves a flag undefined, and so draws: all but ADD and SUB (R37). -/
def AluOp.drawsFlags (op : AluOp) : Bool :=
  match op with
  | .add | .sub => false
  | .rshift | .lshift | .mul | .smul | .umul | .sumul | .pass | .not
  | .and | .or | .xor | .nand | .nor | .xnor => true

/-- Execution of an ALU instruction once its operands are read (R130): FLAGS, then `x[D]`, then `pc`. -/
def State.alu (s : State) (op : AluOp) (d : RegId) (a b : Word) : State :=
  let o := aluResult s.cfg op a b (Config.freeShift s.draws)
  let f := aluFlags s.cfg op a b o (Config.freeFlags s.draws)
  let s' := { s with flags := f, draws := if op.drawsFlags then s.draws + 1 else s.draws }
  (s'.setReg d o).advance

end Sys2Proof.Machine
end

