-- ==== Sys2Proof/Machine/Alu.lean ====
section
/-! DEFINITION. The ALU instructions 0x10 to 0x1F (41_alu.md R130 to R147). All operands are read before the write of `x[D]`. -/

namespace Sys2Proof.Machine

/-- `ADD` (R132): $D = A + B. -/
def execAdd (d : RegId) (ab : Args) (s : State) : Result :=
  .next (s.alu .add d (s.valA ab) (s.valB ab))

/-- `SUB` (R133): $D = A - B. -/
def execSub (d : RegId) (ab : Args) (s : State) : Result :=
  .next (s.alu .sub d (s.valA ab) (s.valB ab))

/-- `RSHIFT` (R134): $D = A >> B. -/
def execRshift (d : RegId) (ab : Args) (s : State) : Result :=
  .next (s.alu .rshift d (s.valA ab) (s.valB ab))

/-- `LSHIFT` (R135): $D = A << B. -/
def execLshift (d : RegId) (ab : Args) (s : State) : Result :=
  .next (s.alu .lshift d (s.valA ab) (s.valB ab))

/-- `MUL` (R136): $D = A * B (unsigned, result is lower 16 bits). -/
def execMul (d : RegId) (ab : Args) (s : State) : Result :=
  .next (s.alu .mul d (s.valA ab) (s.valB ab))

/-- `SMUL` (R137): $D = A * B (signed, result is lower 16 bits). -/
def execSmul (d : RegId) (ab : Args) (s : State) : Result :=
  .next (s.alu .smul d (s.valA ab) (s.valB ab))

/-- `UMUL` (R138): $D = A * B (unsigned, result is upper 16 bits). -/
def execUmul (d : RegId) (ab : Args) (s : State) : Result :=
  .next (s.alu .umul d (s.valA ab) (s.valB ab))

/-- `SUMUL` (R139): $D = A * B (signed, result is upper 16 bits). -/
def execSumul (d : RegId) (ab : Args) (s : State) : Result :=
  .next (s.alu .sumul d (s.valA ab) (s.valB ab))

/-- `PASS` (R140): $D = A. B is 0 where `ONEARG_B` gives one, and no defined flag depends on it otherwise. -/
def execPass (d : RegId) (a : Arg) (s : State) : Result :=
  .next (s.alu .pass d (s.valArg a) 0)

/-- `NOT` (R141): $D = ~A. B is 0 where `ONEARG_B` gives one, and no defined flag depends on it otherwise. -/
def execNot (d : RegId) (a : Arg) (s : State) : Result :=
  .next (s.alu .not d (s.valArg a) 0)

/-- `AND` (R142): $D = A & B. -/
def execAnd (d : RegId) (ab : Args) (s : State) : Result :=
  .next (s.alu .and d (s.valA ab) (s.valB ab))

/-- `OR` (R143): $D = A | B. -/
def execOr (d : RegId) (ab : Args) (s : State) : Result :=
  .next (s.alu .or d (s.valA ab) (s.valB ab))

/-- `XOR` (R144): $D = A ^ B. -/
def execXor (d : RegId) (ab : Args) (s : State) : Result :=
  .next (s.alu .xor d (s.valA ab) (s.valB ab))

/-- `NAND` (R145): $D = ~(A & B). -/
def execNand (d : RegId) (ab : Args) (s : State) : Result :=
  .next (s.alu .nand d (s.valA ab) (s.valB ab))

/-- `NOR` (R146): $D = ~(A | B). -/
def execNor (d : RegId) (ab : Args) (s : State) : Result :=
  .next (s.alu .nor d (s.valA ab) (s.valB ab))

/-- `XNOR` (R147): $D = ~(A ^ B). -/
def execXnor (d : RegId) (ab : Args) (s : State) : Result :=
  .next (s.alu .xnor d (s.valA ab) (s.valB ab))

end Sys2Proof.Machine
end

