-- ==== Sys2Proof/Machine/Branch.lean ====
section
/-! DEFINITION. The branch instructions 0x20 to 0x3B (42_branch.md R170 to R195). -/

namespace Sys2Proof.Machine

/-- A branch on one bit of FLAGS (R170): taken when flag `n` is `want`. -/
def State.branchOn (s : State) (n : Flag) (want : Bool) (a : Arg) : State :=
  if s.flag n = want then s.jump (s.valArg a) else s.advance

/-- `BGT` (R171): Branch to A if greater than (unsigned). -/
def execBgt (a : Arg) (s : State) : Result := .next (s.branchOn .gt true a)

/-- `BLT` (R172): Branch to A if less than (unsigned). -/
def execBlt (a : Arg) (s : State) : Result := .next (s.branchOn .lt true a)

/-- `BSGT` (R173): Branch to A if greater than (signed). -/
def execBsgt (a : Arg) (s : State) : Result := .next (s.branchOn .sgt true a)

/-- `BSLT` (R174): Branch to A if less than (signed). -/
def execBslt (a : Arg) (s : State) : Result := .next (s.branchOn .slt true a)

/-- `BEQ` (R175): Branch to A if equal. -/
def execBeq (a : Arg) (s : State) : Result := .next (s.branchOn .eq true a)

/-- `BZ` (R176): Branch to A if zero. -/
def execBz (a : Arg) (s : State) : Result := .next (s.branchOn .z true a)

/-- `BNEG` (R177): Branch to A if negative. -/
def execBneg (a : Arg) (s : State) : Result := .next (s.branchOn .s true a)

/-- `BPOS` (R178): Branch to A if positive. -/
def execBpos (a : Arg) (s : State) : Result := .next (s.branchOn .pos true a)

/-- `BEV` (R179): Branch to A if even. -/
def execBev (a : Arg) (s : State) : Result := .next (s.branchOn .p true a)

/-- `BBEV` (R180): Branch to A if bitwise even. -/
def execBbev (a : Arg) (s : State) : Result := .next (s.branchOn .bp true a)

/-- `BC` (R181): Branch to A if carry/borrow. -/
def execBc (a : Arg) (s : State) : Result := .next (s.branchOn .c true a)

/-- `BOF` (R182): Branch to A if overflow. -/
def execBof (a : Arg) (s : State) : Result := .next (s.branchOn .of true a)

/-- `BRN` (R183): Branch to A. FLAGS is not read. -/
def execBrn (a : Arg) (s : State) : Result := .next (s.jump (s.valArg a))

/-- `BLE` (R184): Branch to A if less than or equal (unsigned). -/
def execBle (a : Arg) (s : State) : Result := .next (s.branchOn .gt false a)

/-- `BGE` (R185): Branch to A if greater than or equal (unsigned). -/
def execBge (a : Arg) (s : State) : Result := .next (s.branchOn .lt false a)

/-- `BSLE` (R186): Branch to A if less than or equal (signed). -/
def execBsle (a : Arg) (s : State) : Result := .next (s.branchOn .sgt false a)

/-- `BSGE` (R187): Branch to A if greater than or equal (signed). -/
def execBsge (a : Arg) (s : State) : Result := .next (s.branchOn .slt false a)

/-- `BNEQ` (R188): Branch to A if not equal. -/
def execBneq (a : Arg) (s : State) : Result := .next (s.branchOn .eq false a)

/-- `BNZ` (R189): Branch to A if not zero. -/
def execBnz (a : Arg) (s : State) : Result := .next (s.branchOn .z false a)

/-- `BPOSZ` (R190): Branch to A if positive or zero. -/
def execBposz (a : Arg) (s : State) : Result := .next (s.branchOn .s false a)

/-- `BNEGZ` (R191): Branch to A if negative or zero. -/
def execBnegz (a : Arg) (s : State) : Result := .next (s.branchOn .pos false a)

/-- `BOD` (R192): Branch to A if odd. -/
def execBod (a : Arg) (s : State) : Result := .next (s.branchOn .p false a)

/-- `BBOD` (R193): Branch to A if bitwise odd. -/
def execBbod (a : Arg) (s : State) : Result := .next (s.branchOn .bp false a)

/-- `BNC` (R194): Branch to A if not carry/borrow. -/
def execBnc (a : Arg) (s : State) : Result := .next (s.branchOn .c false a)

/-- `BNOF` (R195): Branch to A if not overflow. -/
def execBnof (a : Arg) (s : State) : Result := .next (s.branchOn .of false a)

end Sys2Proof.Machine
end

