-- ==== Sys2Proof/Machine/Control.lean ====
section
/-! DEFINITION. The control instructions NOP, STL and HLT (40_control.md). -/

namespace Sys2Proof.Machine

/-- `NOP` (R120): nothing but the next instruction. -/
def execNop (s : State) : Result := .next s.advance

/-- `STL` (R121): the argument is read, only the delay depends on it. -/
def execStl (a : Arg) (s : State) : Result := .next (s.stall (s.valArg a))

/-- `HLT` (R122): the run state becomes Halted, `pc` stays. -/
def execHlt (s : State) : Result := .next s.halt

end Sys2Proof.Machine
end

