-- ==== Sys2Proof/Machine/MemoryIO.lean ====
section
/-! DEFINITION. The memory and port instructions LOD, STR, IN, OUT (44_memory_io.md R250 to R254) and GFXSP (45_gfx.md R270). -/

namespace Sys2Proof.Machine

/-- `LOD` (R251): $D = #A. -/
def execLod (d : RegId) (a : Arg) (s : State) : Result :=
  andThen (s.memRead (s.valArg a)) fun vs => (vs.2.setReg d vs.1).advance

/-- `STR` (R252): #A = $D. D is a source. -/
def execStr (d : RegId) (a : Arg) (s : State) : Result :=
  andThen (s.memWrite (s.valArg a) (s.reg d)) fun s' => s'.advance

/-- `IN` (R253): $D = %A. -/
def execInPort (d : RegId) (a : Arg) (s : State) : Result :=
  andThen (s.portIn (s.valArg a)) fun vs => (vs.2.setReg d vs.1).advance

/-- `OUT` (R254): %A = $D. D is a source. -/
def execOutPort (d : RegId) (a : Arg) (s : State) : Result :=
  andThen (s.portOut (s.valArg a) (s.reg d)) fun s' => s'.advance

/-- `GFXSP` (R270): Set pixel at (x: A, y: B) to color $D. D is a source. -/
def execGfxsp (d : RegId) (ab : Args) (s : State) : Result :=
  .next (s.gfxSend (s.valA ab) (s.valB ab) (s.reg d)).advance

end Sys2Proof.Machine
end

