-- ==== Sys2Proof/Machine/Reserved.lean ====
section
/-! DEFINITION. The 14 Reserved identifiers, which "may or may not work and have undefined behavior": the fault ReservedInstruction, whatever the other bits (30_encoding.md R91, 60_exceptions.md R304). -/

namespace Sys2Proof.Machine

/-- Reserved identifier 0x2C: no value and no effect may be given to it (R91). -/
def execReserved2C (_rest : BitVec 24) (_s : State) : Result := .fault (.reservedInstruction 0x2C#8)

/-- Reserved identifier 0x2D: no value and no effect may be given to it (R91). -/
def execReserved2D (_rest : BitVec 24) (_s : State) : Result := .fault (.reservedInstruction 0x2D#8)

/-- Reserved identifier 0x2E: no value and no effect may be given to it (R91). -/
def execReserved2E (_rest : BitVec 24) (_s : State) : Result := .fault (.reservedInstruction 0x2E#8)

/-- Reserved identifier 0x3C: no value and no effect may be given to it (R91). -/
def execReserved3C (_rest : BitVec 24) (_s : State) : Result := .fault (.reservedInstruction 0x3C#8)

/-- Reserved identifier 0x3D: no value and no effect may be given to it (R91). -/
def execReserved3D (_rest : BitVec 24) (_s : State) : Result := .fault (.reservedInstruction 0x3D#8)

/-- Reserved identifier 0x3E: no value and no effect may be given to it (R91). -/
def execReserved3E (_rest : BitVec 24) (_s : State) : Result := .fault (.reservedInstruction 0x3E#8)

/-- Reserved identifier 0x3F: no value and no effect may be given to it (R91). -/
def execReserved3F (_rest : BitVec 24) (_s : State) : Result := .fault (.reservedInstruction 0x3F#8)

/-- Reserved identifier 0x4C: no value and no effect may be given to it (R91). -/
def execReserved4C (_rest : BitVec 24) (_s : State) : Result := .fault (.reservedInstruction 0x4C#8)

/-- Reserved identifier 0x4D: no value and no effect may be given to it (R91). -/
def execReserved4D (_rest : BitVec 24) (_s : State) : Result := .fault (.reservedInstruction 0x4D#8)

/-- Reserved identifier 0x4E: no value and no effect may be given to it (R91). -/
def execReserved4E (_rest : BitVec 24) (_s : State) : Result := .fault (.reservedInstruction 0x4E#8)

/-- Reserved identifier 0x5C: no value and no effect may be given to it (R91). -/
def execReserved5C (_rest : BitVec 24) (_s : State) : Result := .fault (.reservedInstruction 0x5C#8)

/-- Reserved identifier 0x5D: no value and no effect may be given to it (R91). -/
def execReserved5D (_rest : BitVec 24) (_s : State) : Result := .fault (.reservedInstruction 0x5D#8)

/-- Reserved identifier 0x5E: no value and no effect may be given to it (R91). -/
def execReserved5E (_rest : BitVec 24) (_s : State) : Result := .fault (.reservedInstruction 0x5E#8)

/-- Reserved identifier 0x5F: no value and no effect may be given to it (R91). -/
def execReserved5F (_rest : BitVec 24) (_s : State) : Result := .fault (.reservedInstruction 0x5F#8)

end Sys2Proof.Machine
end

