-- ==== Sys2Proof/Machine/Select.lean ====
section
/-! DEFINITION. The set instructions 0x40 to 0x5B, MOV and LDI (43_set.md R210 to R236). -/

namespace Sys2Proof.Machine

/-- A select on one bit of FLAGS (R210): `x[D]` becomes A when flag `n` is `want` and B otherwise. -/
def State.selectOn (s : State) (n : Flag) (want : Bool) (d : RegId) (ab : SetArgs) : State :=
  (s.setReg d (if s.flag n = want then s.valSetA ab else s.valSetB ab)).advance

/-- The unconditional copy of identifier 0x4F (R223): FLAGS is neither read nor written. -/
def State.copy (s : State) (d : RegId) (a : Arg) : State :=
  (s.setReg d (s.valArg a)).advance

/-- `SGT` (R211): $D = A if greater than (unsigned) else B. -/
def execSgt (d : RegId) (ab : SetArgs) (s : State) : Result :=
  .next (s.selectOn .gt true d ab)

/-- `SLT` (R212): $D = A if less than (unsigned) else B. -/
def execSlt (d : RegId) (ab : SetArgs) (s : State) : Result :=
  .next (s.selectOn .lt true d ab)

/-- `SSGT` (R213): $D = A if greater than (signed) else B. -/
def execSsgt (d : RegId) (ab : SetArgs) (s : State) : Result :=
  .next (s.selectOn .sgt true d ab)

/-- `SSLT` (R214): $D = A if less than (signed) else B. -/
def execSslt (d : RegId) (ab : SetArgs) (s : State) : Result :=
  .next (s.selectOn .slt true d ab)

/-- `SEQ` (R215): $D = A if equal else B. -/
def execSeq (d : RegId) (ab : SetArgs) (s : State) : Result :=
  .next (s.selectOn .eq true d ab)

/-- `SZ` (R216): $D = A if zero else B. -/
def execSz (d : RegId) (ab : SetArgs) (s : State) : Result :=
  .next (s.selectOn .z true d ab)

/-- `SNEG` (R217): $D = A if negative else B. -/
def execSneg (d : RegId) (ab : SetArgs) (s : State) : Result :=
  .next (s.selectOn .s true d ab)

/-- `SPOS` (R218): $D = A if positive else B. -/
def execSpos (d : RegId) (ab : SetArgs) (s : State) : Result :=
  .next (s.selectOn .pos true d ab)

/-- `SEV` (R219): $D = A if even else B. -/
def execSev (d : RegId) (ab : SetArgs) (s : State) : Result :=
  .next (s.selectOn .p true d ab)

/-- `SBEV` (R220): $D = A if bitwise even else B. -/
def execSbev (d : RegId) (ab : SetArgs) (s : State) : Result :=
  .next (s.selectOn .bp true d ab)

/-- `SC` (R221): $D = A if carry/borrow else B. -/
def execSc (d : RegId) (ab : SetArgs) (s : State) : Result :=
  .next (s.selectOn .c true d ab)

/-- `SOF` (R222): $D = A if overflow else B. -/
def execSof (d : RegId) (ab : SetArgs) (s : State) : Result :=
  .next (s.selectOn .of true d ab)

/-- `MOV` (R223): $D = A (this instruction is the same as LDI). -/
def execMov (d : RegId) (a : Arg) (s : State) : Result := .next (s.copy d a)

/-- `LDI` (R224): $D = A (this instruction is the same as MOV). -/
def execLdi (d : RegId) (a : Arg) (s : State) : Result := .next (s.copy d a)

/-- `SLE` (R225): $D = A if less than or equal (unsigned) else B. -/
def execSle (d : RegId) (ab : SetArgs) (s : State) : Result :=
  .next (s.selectOn .gt false d ab)

/-- `SGE` (R226): $D = A if greater than or equal (unsigned) else B. -/
def execSge (d : RegId) (ab : SetArgs) (s : State) : Result :=
  .next (s.selectOn .lt false d ab)

/-- `SSLE` (R227): $D = A if less than or equal (signed) else B. -/
def execSsle (d : RegId) (ab : SetArgs) (s : State) : Result :=
  .next (s.selectOn .sgt false d ab)

/-- `SSGE` (R228): $D = A if greater than or equal (signed) else B. -/
def execSsge (d : RegId) (ab : SetArgs) (s : State) : Result :=
  .next (s.selectOn .slt false d ab)

/-- `SNEQ` (R229): $D = A if not equal else B. -/
def execSneq (d : RegId) (ab : SetArgs) (s : State) : Result :=
  .next (s.selectOn .eq false d ab)

/-- `SNZ` (R230): $D = A if not zero else B. -/
def execSnz (d : RegId) (ab : SetArgs) (s : State) : Result :=
  .next (s.selectOn .z false d ab)

/-- `SPOSZ` (R231): $D = A if positive or zero else B. -/
def execSposz (d : RegId) (ab : SetArgs) (s : State) : Result :=
  .next (s.selectOn .s false d ab)

/-- `SNEGZ` (R232): $D = A if negative or zero else B. -/
def execSnegz (d : RegId) (ab : SetArgs) (s : State) : Result :=
  .next (s.selectOn .pos false d ab)

/-- `SOD` (R233): $D = A if odd else B. -/
def execSod (d : RegId) (ab : SetArgs) (s : State) : Result :=
  .next (s.selectOn .p false d ab)

/-- `SBOD` (R234): $D = A if bitwise odd else B. -/
def execSbod (d : RegId) (ab : SetArgs) (s : State) : Result :=
  .next (s.selectOn .bp false d ab)

/-- `SNC` (R235): $D = A if not carry/borrow else B. -/
def execSnc (d : RegId) (ab : SetArgs) (s : State) : Result :=
  .next (s.selectOn .c false d ab)

/-- `SNOF` (R236): $D = A if not overflow else B. -/
def execSnof (d : RegId) (ab : SetArgs) (s : State) : Result :=
  .next (s.selectOn .of false d ab)

end Sys2Proof.Machine
end

