-- ==== Sys2Proof/Machine/Dispatch.lean ====
section
/-! DEFINITION. One arm per instruction, each a call of its meaning. -/

namespace Sys2Proof.Machine

def exec (i : Instr) (s : State) : Host.Outcome State Fault Refusal :=
  match i with
  | .nop => Sys2Proof.Machine.execNop s
  | .stl a => Sys2Proof.Machine.execStl a s
  | .hlt => Sys2Proof.Machine.execHlt s
  | .add d ab => Sys2Proof.Machine.execAdd d ab s
  | .sub d ab => Sys2Proof.Machine.execSub d ab s
  | .rshift d ab => Sys2Proof.Machine.execRshift d ab s
  | .lshift d ab => Sys2Proof.Machine.execLshift d ab s
  | .mul d ab => Sys2Proof.Machine.execMul d ab s
  | .smul d ab => Sys2Proof.Machine.execSmul d ab s
  | .umul d ab => Sys2Proof.Machine.execUmul d ab s
  | .sumul d ab => Sys2Proof.Machine.execSumul d ab s
  | .pass d a => Sys2Proof.Machine.execPass d a s
  | .not d a => Sys2Proof.Machine.execNot d a s
  | .and d ab => Sys2Proof.Machine.execAnd d ab s
  | .or d ab => Sys2Proof.Machine.execOr d ab s
  | .xor d ab => Sys2Proof.Machine.execXor d ab s
  | .nand d ab => Sys2Proof.Machine.execNand d ab s
  | .nor d ab => Sys2Proof.Machine.execNor d ab s
  | .xnor d ab => Sys2Proof.Machine.execXnor d ab s
  | .bgt a => Sys2Proof.Machine.execBgt a s
  | .blt a => Sys2Proof.Machine.execBlt a s
  | .bsgt a => Sys2Proof.Machine.execBsgt a s
  | .bslt a => Sys2Proof.Machine.execBslt a s
  | .beq a => Sys2Proof.Machine.execBeq a s
  | .bz a => Sys2Proof.Machine.execBz a s
  | .bneg a => Sys2Proof.Machine.execBneg a s
  | .bpos a => Sys2Proof.Machine.execBpos a s
  | .bev a => Sys2Proof.Machine.execBev a s
  | .bbev a => Sys2Proof.Machine.execBbev a s
  | .bc a => Sys2Proof.Machine.execBc a s
  | .bof a => Sys2Proof.Machine.execBof a s
  | .reserved2C rest => Sys2Proof.Machine.execReserved2C rest s
  | .reserved2D rest => Sys2Proof.Machine.execReserved2D rest s
  | .reserved2E rest => Sys2Proof.Machine.execReserved2E rest s
  | .brn a => Sys2Proof.Machine.execBrn a s
  | .ble a => Sys2Proof.Machine.execBle a s
  | .bge a => Sys2Proof.Machine.execBge a s
  | .bsle a => Sys2Proof.Machine.execBsle a s
  | .bsge a => Sys2Proof.Machine.execBsge a s
  | .bneq a => Sys2Proof.Machine.execBneq a s
  | .bnz a => Sys2Proof.Machine.execBnz a s
  | .bposz a => Sys2Proof.Machine.execBposz a s
  | .bnegz a => Sys2Proof.Machine.execBnegz a s
  | .bod a => Sys2Proof.Machine.execBod a s
  | .bbod a => Sys2Proof.Machine.execBbod a s
  | .bnc a => Sys2Proof.Machine.execBnc a s
  | .bnof a => Sys2Proof.Machine.execBnof a s
  | .reserved3C rest => Sys2Proof.Machine.execReserved3C rest s
  | .reserved3D rest => Sys2Proof.Machine.execReserved3D rest s
  | .reserved3E rest => Sys2Proof.Machine.execReserved3E rest s
  | .reserved3F rest => Sys2Proof.Machine.execReserved3F rest s
  | .sgt d ab => Sys2Proof.Machine.execSgt d ab s
  | .slt d ab => Sys2Proof.Machine.execSlt d ab s
  | .ssgt d ab => Sys2Proof.Machine.execSsgt d ab s
  | .sslt d ab => Sys2Proof.Machine.execSslt d ab s
  | .seq d ab => Sys2Proof.Machine.execSeq d ab s
  | .sz d ab => Sys2Proof.Machine.execSz d ab s
  | .sneg d ab => Sys2Proof.Machine.execSneg d ab s
  | .spos d ab => Sys2Proof.Machine.execSpos d ab s
  | .sev d ab => Sys2Proof.Machine.execSev d ab s
  | .sbev d ab => Sys2Proof.Machine.execSbev d ab s
  | .sc d ab => Sys2Proof.Machine.execSc d ab s
  | .sof d ab => Sys2Proof.Machine.execSof d ab s
  | .reserved4C rest => Sys2Proof.Machine.execReserved4C rest s
  | .reserved4D rest => Sys2Proof.Machine.execReserved4D rest s
  | .reserved4E rest => Sys2Proof.Machine.execReserved4E rest s
  | .mov d a => Sys2Proof.Machine.execMov d a s
  | .ldi d a => Sys2Proof.Machine.execLdi d a s
  | .sle d ab => Sys2Proof.Machine.execSle d ab s
  | .sge d ab => Sys2Proof.Machine.execSge d ab s
  | .ssle d ab => Sys2Proof.Machine.execSsle d ab s
  | .ssge d ab => Sys2Proof.Machine.execSsge d ab s
  | .sneq d ab => Sys2Proof.Machine.execSneq d ab s
  | .snz d ab => Sys2Proof.Machine.execSnz d ab s
  | .sposz d ab => Sys2Proof.Machine.execSposz d ab s
  | .snegz d ab => Sys2Proof.Machine.execSnegz d ab s
  | .sod d ab => Sys2Proof.Machine.execSod d ab s
  | .sbod d ab => Sys2Proof.Machine.execSbod d ab s
  | .snc d ab => Sys2Proof.Machine.execSnc d ab s
  | .snof d ab => Sys2Proof.Machine.execSnof d ab s
  | .reserved5C rest => Sys2Proof.Machine.execReserved5C rest s
  | .reserved5D rest => Sys2Proof.Machine.execReserved5D rest s
  | .reserved5E rest => Sys2Proof.Machine.execReserved5E rest s
  | .reserved5F rest => Sys2Proof.Machine.execReserved5F rest s
  | .lod d a => Sys2Proof.Machine.execLod d a s
  | .str d a => Sys2Proof.Machine.execStr d a s
  | .inPort d a => Sys2Proof.Machine.execInPort d a s
  | .outPort d a => Sys2Proof.Machine.execOutPort d a s
  | .gfxsp d ab => Sys2Proof.Machine.execGfxsp d ab s

end Sys2Proof.Machine
end

