-- ==== Sys2Proof/Machine/Step.lean ====
section
/-! DEFINITION. One step of the machine (20_memory.md R57, 10_state.md R33) and the placing of one instruction where the next step fetches. -/

namespace Sys2Proof.Machine

/-- Fetch, decode, execute: one step of a running CPU (R57), with the faults of R309 in their order. -/
def State.runInstruction (s : State) : Host.Outcome State Fault Refusal :=
  match s.fetch with
  | none => .fault (.fetchOutOfRange s.pc)
  | some w =>
    match decode w with
    | .illegal reason => .fault (.illegalEncoding w reason)
    | .instr i => exec i s

/-- A step in which the operator does nothing: a CPU that is not running executes nothing (R33). -/
def State.runCpu (s : State) : Host.Outcome State Fault Refusal :=
  match s.runState with
  | .running => s.runInstruction
  | .notStarted => .next s
  | .halted => .next s

/-- One step: the operator's next action if there is one, otherwise the CPU's instruction (entry 8). -/
def step (s : State) : Host.Outcome State Fault Refusal :=
  match s.operator with
  | [] => s.runCpu
  | .idle :: rest => { s with operator := rest }.runCpu
  | action :: rest => .next ({ s with operator := rest }.operate action)

/-- The operator's list without the actions that would come before the next instruction. -/
def skipActions : List OperatorAction → List OperatorAction
  | [] => []
  | .idle :: rest => .idle :: rest
  | _ :: rest => skipActions rest

/-- The state with one instruction placed where the next step fetches it, and the CPU running (entry 7). An instruction
is one 32-bit ROM entry, so its bits are the entry's. A `pc` beyond the ROM, where nothing can be placed, becomes 0. -/
def State.withFetchWord (s : State) (nbits w : Nat) : State :=
  let a : Word := if romEntries ≤ s.pc.toNat then 0 else s.pc
  { s with
    pc := a
    runState := .running
    operator := skipActions s.operator
    rom := Memory.write s.rom a.toNat (BitVec.ofNat 32 (w % 2 ^ nbits)) }

end Sys2Proof.Machine
end

