-- ==== Sys2Proof/Machine/Display.lean ====
section
/-! DEFINITION. What an observer outside the CPU sees (70_reset_and_hazards.md R336) and what the event history means on the ILF-GFX display (45_gfx.md R273, R275). Nothing here is read by an instruction (entry 27). -/

namespace Sys2Proof.Machine

/-- What is visible from outside: the events in program order, the levels of the output ports, whether the CPU has halted (R336). -/
structure Observation where
  events : List Event
  levels : Vector Word 16
  halted : Bool
deriving DecidableEq, Repr

/-- The observer's view of a state (R336). -/
def State.observe (s : State) : Observation :=
  { events := s.events, levels := s.outPorts, halted := decide (s.runState = .halted) }

/-- A colour as the 2-bit levels sent to the DAC (R275, R276). -/
structure Rgb222 where
  r : BitVec 2
  g : BitVec 2
  b : BitVec 2
deriving DecidableEq, Repr

/-- The default palette by colour index (R275). -/
def palette (index : BitVec 4) : Rgb222 :=
  match index.toNat with
  | 0x0 => { r := 0b00, g := 0b00, b := 0b00 }  -- Black
  | 0x1 => { r := 0b00, g := 0b00, b := 0b01 }  -- Dark Blue
  | 0x2 => { r := 0b01, g := 0b00, b := 0b01 }  -- Dark Purple
  | 0x3 => { r := 0b00, g := 0b01, b := 0b00 }  -- Dark Green
  | 0x4 => { r := 0b10, g := 0b01, b := 0b00 }  -- Brown
  | 0x5 => { r := 0b01, g := 0b01, b := 0b01 }  -- Dark Gray
  | 0x6 => { r := 0b10, g := 0b10, b := 0b10 }  -- Light Gray
  | 0x7 => { r := 0b11, g := 0b11, b := 0b11 }  -- White
  | 0x8 => { r := 0b11, g := 0b00, b := 0b01 }  -- Red
  | 0x9 => { r := 0b11, g := 0b01, b := 0b00 }  -- Orange
  | 0xA => { r := 0b11, g := 0b11, b := 0b01 }  -- Yellow
  | 0xB => { r := 0b00, g := 0b11, b := 0b01 }  -- Green
  | 0xC => { r := 0b00, g := 0b10, b := 0b11 }  -- Blue
  | 0xD => { r := 0b10, g := 0b01, b := 0b10 }  -- Purple
  | 0xE => { r := 0b11, g := 0b01, b := 0b10 }  -- Pink
  | _   => { r := 0b11, g := 0b10, b := 0b10 }  -- Light Pink

/-- The RGB888 equivalent of a level (R275). -/
def level888 (level : BitVec 2) : BitVec 8 :=
  match level.toNat with
  | 0 => 0x00
  | 1 => 0x62
  | 2 => 0xBA
  | _ => 0xFF

/-- A pixel of the screen: the column is below its width and the row below its height (R273; entry 27). -/
abbrev onScreen (screen : Screen) (x y : Word) : Prop := x.toNat < screen.width ∧ y.toNat < screen.height

/-- What is known of the pixel at column `x` and row `y` after one more event, where `before` was known: "A pixel keeps
its colour until set again" (R273). The treatment of a coordinate outside the screen is not stated, so after such a
request nothing is known of any pixel until it is set again (entry 27). -/
def pixelAfter (screen : Screen) (x y : Word) (before : Option Word) : Event → Option Word
  | .out _ _ => before
  | .gfx x' y' c => if onScreen screen x' y' then (if x' = x ∧ y' = y then some c else before) else none

/-- The colour value an observer may conclude a pixel has from an event history (R273). None where nothing follows: a
coordinate that is no pixel of the screen, a pixel never set, whose contents are not stated, and a pixel not set again
since a request off the screen. -/
def pixelValue (screen : Screen) (events : List Event) (x y : Word) : Option Word :=
  events.foldl (pixelAfter screen x y) none

/-- The colour that follows for a pixel of the display from an event history, in the default palette (R273, R275). -/
def shownColour (events : List Event) (x y : Word) : Option Rgb222 :=
  (pixelValue Config.gfxScreen events x y).map fun c => palette (Config.gfxColorIndex c)

end Sys2Proof.Machine
end

