-- ==== Sys2Proof/Machine/Macros.lean ====
section
/-! DEFINITION. The images a program is loaded as (70_reset_and_hazards.md R334, 47_assembler.md R286, R289) and the spec's reference expansions of the assembler's stack macros (R285, decision D31; entry 28). No instruction uses them. -/

namespace Sys2Proof.Machine

/-- `PROGRAM` from a list of instructions: entry k is the k-th instruction of the file (R289, R334). -/
def programOf (is : List Instr) : Rom := Memory.ofList 0 (is.map encode)

/-- `RAM_IMAGE` from the operands of the DW lines: word k is the k-th operand (R286). -/
def ramImageOf (values : List Word) : Ram := Memory.ofList 0 values

/-- The absolute address that stands for `~+n` in the instruction at `p` (R283): the sum of two integers (R6). None where
it does not fit the 16-bit immediate, which has no encoding then (30_encoding.md R96, R291). -/
def relativeTarget (p n : Nat) : Option Word :=
  if p + n < 2 ^ 16 then some (BitVec.ofNat 16 (p + n)) else none

/-- `PSH $r`. -/
def pshReg (r : RegId) : List Instr := [.sub 15 (.regImm 15 1), .str r (.reg 15)]

/-- `PSH imm`. -/
def pshImm (v : Word) : List Instr := [.sub 15 (.regImm 15 1), .mov 14 (.imm v), .str 14 (.reg 15)]

/-- `POP $r`. -/
def popReg (r : RegId) : List Instr := [.lod r (.reg 15), .add 15 (.regImm 15 1)]

/-- `CAL .label` at address `p`: the return address is `p + 4`. None where it does not fit the 16-bit immediate. -/
def cal (p : Nat) (label : Word) : Option (List Instr) :=
  (relativeTarget p 4).map fun ret =>
    [.mov 14 (.imm ret), .sub 15 (.regImm 15 1), .str 14 (.reg 15), .brn (.imm label)]

/-- `RET`. -/
def ret : List Instr := [.lod 14 (.reg 15), .add 15 (.regImm 15 1), .brn (.reg 14)]

end Sys2Proof.Machine
end

