-- ==== Sys2Proof/Safety.lean ====
section
/-! DEFINITION. What counts as a good state and a safe run, and the terms the statements use to say what an instruction leaves unchanged. -/

namespace Sys2Proof.Machine

/-- The value of the last `Out` event to port `p` in a history. -/
def lastOut : List Event → PortId → Option Word
  | [], _ => none
  | .gfx _ _ _ :: rest, p => lastOut rest p
  | .out q v :: rest, p =>
    match lastOut rest p with
    | some w => some w
    | none => if q = p then some v else none

/-- What holds of the machine after every step. -/
structure State.Inv (s : State) : Prop where
  /-- The RAM is in its canonical form, below 8,192 (20_memory.md R51). -/
  ram_wf : Memory.wf ramWords s.ram = true
  /-- The ROM image is in its canonical form, below 13,312 (20_memory.md R56). -/
  rom_wf : Memory.wf romEntries s.rom = true
  /-- The RAM image is in its canonical form. -/
  image_wf : Memory.wf ramWords s.ramImage = true
  /-- `pc` fits `PC_WIDTH` (10_state.md R25). -/
  pc_fits : s.pc.toNat < 2 ^ s.cfg.pcWidth.bits
  /-- FLAGS bits 12 to 14 are 0 and bit 15 is 1 (10_state.md R26). -/
  flags_fixed : s.flags &&& 0xF000#16 = 0x8000#16
  /-- Every output latch keeps the last value an OUT wrote to it (10_state.md R32). -/
  latches : ∀ p v, lastOut s.events p = some v → s.outPort p = v

/-- The next `k` steps all answer a next state: no model fault ends the run (70_reset_and_hazards.md R335). -/
def State.SafeFor : Nat → State → Prop
  | 0, _ => True
  | k + 1, s => ∃ t, step s = .next t ∧ t.SafeFor k

/-- The run from `s` ends: after some steps the CPU has halted (R335). -/
def State.Ends (s : State) : Prop :=
  ∃ k t, Host.Core.run Sys2Proof.core k s = .next t ∧ t.runState = .halted

/-! What an instruction leaves unchanged. -/

/-- Every register but `d` reads as before. -/
def SameRegsBut (d : RegId) (s t : State) : Prop := ∀ r, r ≠ d → t.reg r = s.reg r

/-- Every register reads as before. -/
def SameRegs (s t : State) : Prop := ∀ r, t.reg r = s.reg r

/-- Every word of RAM but the one at `a` reads as before. -/
def SameRamBut (a : Nat) (s t : State) : Prop := ∀ b, b ≠ a → t.ramWord b = s.ramWord b

/-- Every word of RAM reads as before. -/
def SameRam (s t : State) : Prop := ∀ b, t.ramWord b = s.ramWord b

/-- Every output port keeps its level and no event is recorded. -/
def SameOutputs (s t : State) : Prop := (∀ p, t.outPort p = s.outPort p) ∧ t.events = s.events

/-- What no instruction changes: the ROM, the RAM image, the parameters, what the operator will do. -/
def SameFixed (s t : State) : Prop :=
  t.rom = s.rom ∧ t.ramImage = s.ramImage ∧ t.cfg = s.cfg ∧ t.operator = s.operator

/-- The environment has been asked for nothing and nothing has been drawn. -/
def SameSupply (s t : State) : Prop := t.inputs = s.inputs ∧ t.draws = s.draws

/-- The instruction has ended at the next instruction in sequence, 4 clocks later, the CPU running on as before (R25, R340). -/
def NextInSequence (s t : State) : Prop :=
  t.pc.toNat = (s.pc.toNat + 1) % 2 ^ s.cfg.pcWidth.bits ∧ t.clocks = s.clocks + 4 ∧ t.runState = s.runState

/-- The instruction has ended at the target `a`, 4 clocks later, the CPU running on as before (R170, R340). -/
def BranchesTo (a : Word) (s t : State) : Prop :=
  t.pc.toNat = a.toNat % 2 ^ s.cfg.pcWidth.bits ∧ t.clocks = s.clocks + 4 ∧ t.runState = s.runState

/-- `x[d]` holds `v` now, unless `d` is register 0, which reads 0 (R22). -/
def Holds (d : RegId) (v : Word) (t : State) : Prop := t.reg d = if d = 0 then 0 else v

/-! The flags after an ALU instruction, in the words of 41_alu.md R131. -/

/-- GT, LT, SGT, SLT and EQ compare the operands. -/
def ComparisonFlags (a b : Word) (t : State) : Prop :=
  t.flags.getLsbD 0 = decide (b.toNat < a.toNat) ∧
  t.flags.getLsbD 1 = decide (a.toNat < b.toNat) ∧
  t.flags.getLsbD 2 = decide (b.toInt < a.toInt) ∧
  t.flags.getLsbD 3 = decide (a.toInt < b.toInt) ∧
  t.flags.getLsbD 4 = decide (a.toNat = b.toNat)

/-- Z, S, POS, P and BP describe the result, and bits 12 to 15 are constant. -/
def ResultFlags (o : Word) (t : State) : Prop :=
  t.flags.getLsbD 5 = decide (o.toNat = 0) ∧
  t.flags.getLsbD 6 = decide (o.toInt < 0) ∧
  t.flags.getLsbD 7 = decide (0 < o.toInt) ∧
  t.flags.getLsbD 8 = decide (o.toNat % 2 = 0) ∧
  t.flags.getLsbD 9 = decide ((List.range 16).countP (fun k => o.getLsbD k) % 2 = 0) ∧
  t.flags.getLsbD 12 = false ∧ t.flags.getLsbD 13 = false ∧ t.flags.getLsbD 14 = false ∧
  t.flags.getLsbD 15 = true

/-- C and OF are fresh free bits: they are whatever the draw gives, and the next draw is another one (R37). -/
def FreeCarryAndOverflow (s t : State) : Prop :=
  t.flags.getLsbD 10 = (Config.freeFlags s.draws).getLsbD 10 ∧
  t.flags.getLsbD 11 = (Config.freeFlags s.draws).getLsbD 11 ∧ t.draws = s.draws + 1

/-- The part of an ALU instruction's effect that is the same for all sixteen: the result `o` in `x[d]`, the flags of the
result, and nothing else but `pc` and the clock. C, OF and the comparison flags are said apart. -/
def AluEffect (d : RegId) (o : Word) (s t : State) : Prop :=
  Holds d o t ∧ ResultFlags o t ∧ SameRegsBut d s t ∧ SameRam s t ∧ SameOutputs s t ∧ SameFixed s t ∧
  t.inputs = s.inputs ∧ NextInSequence s t

end Sys2Proof.Machine
end

