-- ==== Sys2Proof/Certificates/Slice0/Obligations.lean ====
section
/-! DEFINITION. The statements for the provers. -/

namespace Sys2Proof.Machine

/-- The branch `mk` (R170): with `FLAGS[n]` equal to `want` it ends at its target, otherwise at the next instruction; it
changes nothing else. It completes in every state. -/
def BranchRule (mk : Arg → Instr) (n : Nat) (want : Bool) : Prop :=
  ∀ (a : Arg) (s : State), ∃ t, exec (mk a) s = .next t ∧
    (if s.flags.getLsbD n = want then BranchesTo (s.valArg a) s t else NextInSequence s t) ∧
    SameRegs s t ∧ t.flags = s.flags ∧ SameRam s t ∧ SameOutputs s t ∧ SameFixed s t ∧ SameSupply s t

/-- The set instruction `mk` (R210): `x[d]` becomes A with `FLAGS[n]` equal to `want` and B otherwise, 0 for an absent B;
nothing else changes but `pc` and the clock. It completes in every state. -/
def SelectRule (mk : RegId → SetArgs → Instr) (n : Nat) (want : Bool) : Prop :=
  ∀ (d : RegId) (s : State),
    (∀ a : Arg, ∃ t, exec (mk d (.one a)) s = .next t ∧
      Holds d (if s.flags.getLsbD n = want then s.valArg a else 0) t ∧
      SameRegsBut d s t ∧ t.flags = s.flags ∧ SameRam s t ∧ SameOutputs s t ∧ SameFixed s t ∧ SameSupply s t ∧
      NextInSequence s t) ∧
    (∀ ab : Args, ∃ t, exec (mk d (.two ab)) s = .next t ∧
      Holds d (if s.flags.getLsbD n = want then s.valA ab else s.valB ab) t ∧
      SameRegsBut d s t ∧ t.flags = s.flags ∧ SameRam s t ∧ SameOutputs s t ∧ SameFixed s t ∧ SameSupply s t ∧
      NextInSequence s t)

/-- A two-argument ALU instruction `mk` whose result is `o` of its operands, with C and OF free (R130, R131). It completes
in every state. -/
def AluRule (mk : RegId → Args → Instr) (o : Word → Word → Word → Prop) : Prop :=
  ∀ (d : RegId) (ab : Args) (s : State), ∃ t v, exec (mk d ab) s = .next t ∧ o (s.valA ab) (s.valB ab) v ∧
    AluEffect d v s t ∧ ComparisonFlags (s.valA ab) (s.valB ab) t ∧ FreeCarryAndOverflow s t

/-- Exactly one of three. -/
def ExactlyOne (a b c : Bool) : Prop := a.toNat + b.toNat + c.toNat = 1

/-- `mk` leaves relations between FLAGS bits: exactly one of GT, LT, EQ, of SGT, SLT, EQ and of Z, S, POS (R28). -/
def ExclusiveFlags (mk : RegId → Args → Instr) : Prop :=
  ∀ d ab (s t : State), exec (mk d ab) s = .next t →
    ExactlyOne (t.flags.getLsbD 0) (t.flags.getLsbD 1) (t.flags.getLsbD 4) ∧
    ExactlyOne (t.flags.getLsbD 2) (t.flags.getLsbD 3) (t.flags.getLsbD 4) ∧
    ExactlyOne (t.flags.getLsbD 5) (t.flags.getLsbD 6) (t.flags.getLsbD 7) ∧
    t.flags.getLsbD 12 = false ∧ t.flags.getLsbD 13 = false ∧ t.flags.getLsbD 14 = false ∧ t.flags.getLsbD 15 = true

/-- Of the branches `mk` and `mk'` to one target exactly one is taken, whatever FLAGS holds. -/
def Complementary (mk mk' : Arg → Instr) : Prop :=
  ∀ (a : Arg) (s t u : State), exec (mk a) s = .next t → exec (mk' a) s = .next u →
    (BranchesTo (s.valArg a) s t ∧ NextInSequence s u) ∨ (NextInSequence s t ∧ BranchesTo (s.valArg a) s u)

/-- After the compare `SUB $0 A B` the branch `mk` is taken exactly when the operands compared stand in the relation. -/
def TakenAfterCompare (mk : Arg → Instr) (rel : Word → Word → Prop) : Prop :=
  ∀ (ab : Args) (a : Arg) (s t u : State), exec (.sub 0 ab) s = .next t → exec (mk a) t = .next u →
    (rel (s.valA ab) (s.valB ab) → BranchesTo (s.valArg a) t u) ∧
    (¬ rel (s.valA ab) (s.valB ab) → NextInSequence t u)

/-- After the compare `SUB $0 $p $q` the set instruction `mk` leaves in `$d` a value that `pick` gives of the registers
compared. -/
def SelectAfterCompare (mk : RegId → SetArgs → Instr) (pick : Word → Word → Word → Prop) : Prop :=
  ∀ (p q d : RegId) (s t u : State), d ≠ 0 → exec (.sub 0 (.regReg p q)) s = .next t →
    exec (mk d (.two (.regReg p q))) t = .next u → pick (s.reg p) (s.reg q) (u.reg d)

/-- The target of a branch instruction; none for the other instructions (R170). -/
def branchArg : Instr → Option Arg
  | .bgt a | .blt a | .bsgt a | .bslt a | .beq a | .bz a
  | .bneg a | .bpos a | .bev a | .bbev a | .bc a | .bof a
  | .brn a
  | .ble a | .bge a | .bsle a | .bsge a | .bneq a | .bnz a
  | .bposz a | .bnegz a | .bod a | .bbod a | .bnc a | .bnof a => some a
  | _ => none

/-- The Reserved identifiers (R91). -/
def reservedIds : List Nat :=
  [0x2C, 0x2D, 0x2E, 0x3C, 0x3D, 0x3E, 0x3F, 0x4C, 0x4D, 0x4E, 0x5C, 0x5D, 0x5E, 0x5F]

/-- The identifiers that take no argument (R90, R93). -/
def noArgIds : List Nat := [0x00, 0x08]

/-- The identifiers that take one argument. -/
def oneArgIds : List Nat :=
  [0x04, 0x18, 0x19, 0x20, 0x21, 0x22, 0x23, 0x24, 0x25, 0x26, 0x27, 0x28, 0x29, 0x2A, 0x2B, 0x2F, 0x30, 0x31, 0x32,
   0x33, 0x34, 0x35, 0x36, 0x37, 0x38, 0x39, 0x3A, 0x3B, 0x4F, 0xC0, 0xC4, 0xC8, 0xCC]

/-- The identifiers that take two arguments. -/
def twoArgIds : List Nat :=
  [0x10, 0x11, 0x12, 0x13, 0x14, 0x15, 0x16, 0x17, 0x1A, 0x1B, 0x1C, 0x1D, 0x1E, 0x1F, 0xD0]

/-- The identifiers that take one or two arguments. -/
def oneOrTwoArgIds : List Nat :=
  [0x40, 0x41, 0x42, 0x43, 0x44, 0x45, 0x46, 0x47, 0x48, 0x49, 0x4A, 0x4B, 0x50, 0x51, 0x52, 0x53, 0x54, 0x55, 0x56,
   0x57, 0x58, 0x59, 0x5A, 0x5B]

/-- The named identifiers without a destination: NOP, STL, HLT and the branches (R89). -/
def bareIds : List Nat :=
  [0x00, 0x04, 0x08, 0x20, 0x21, 0x22, 0x23, 0x24, 0x25, 0x26, 0x27, 0x28, 0x29, 0x2A, 0x2B, 0x2F, 0x30, 0x31, 0x32,
   0x33, 0x34, 0x35, 0x36, 0x37, 0x38, 0x39, 0x3A, 0x3B]

/-- The argument counts admitted for an identifier (R93). -/
def admittedCounts (I : Nat) : List Nat :=
  if I ∈ noArgIds then [0] else if I ∈ oneArgIds then [1] else if I ∈ twoArgIds then [2]
  else if I ∈ oneOrTwoArgIds then [1, 2] else []

/-- A padding bit of the operand form is set (R94, step 6). -/
def Padded (w : InstrWord) : Prop :=
  ((w >>> 22).toNat % 4 = 1 ∧ w.getLsbD 21 = true ∧ w.toNat % 65536 / 16 ≠ 0) ∨
  ((w >>> 22).toNat % 4 = 2 ∧ w.getLsbD 21 = true ∧ w.getLsbD 20 = true ∧
    (w.toNat % 65536 / 4096 ≠ 0 ∨ w.toNat % 256 / 16 ≠ 0))

/-- The CPU has this step: it is running and the operator does nothing. -/
def CpuRuns (s : State) : Prop :=
  s.runState = .running ∧ (s.operator = [] ∨ ∃ rest, s.operator = .idle :: rest)

/-- The state whose instruction this step executes: the operator's `idle` is taken off its list. -/
def afterIdle (s : State) : State := { s with operator := s.operator.tail }

end Sys2Proof.Machine

open Sys2Proof Sys2Proof.Machine

/-! Reset, start and the operator. -/

/-- What 10_state.md R35 says of the state after a reset and does not leave unspecified, for every setting of the
parameters and every pair of images; and that the model's reset state is that of the default parameters with nothing
loaded. The values of R1 to R15, FLAGS and the latches are the model's choice (entries 2, 3, 4) and are not stated. -/
def Obligations.ResetLeavesTheStartState : Prop :=
  State.reset = State.resetWith Config.specDefault [] [] ∧ State.reset.pc = 0 ∧
  ∀ (cfg : Config) (rom : Rom) (image : Ram),
    let s := State.resetWith cfg rom image
    s.runState = .notStarted ∧ s.pc.toNat = cfg.resetPc.val ∧ s.reg 0 = 0 ∧ s.rom = rom ∧
    (∀ a, s.ramWord a = Memory.read image a) ∧ s.ramImage = image ∧ s.events = [] ∧ s.cfg = cfg

/-- The invariant holds after every reset with images in canonical form, the model's own reset state among them. That
FLAGS bits 12 to 15 are as R26 lays them out at reset is the model's choice (entry 3). -/
def Obligations.InvariantHoldsAtReset : Prop :=
  State.reset.Inv ∧
  ∀ (cfg : Config) (rom : Rom) (image : Ram), Memory.wf romEntries rom = true → Memory.wf ramWords image = true →
    (State.resetWith cfg rom image).Inv

/-- Every step keeps the invariant: the memories' canonical form, `pc` within `PC_WIDTH`, FLAGS bits 12 to 15 as R26 lays
them out, every output latch equal to the last value an OUT wrote to it. From every state that meets it, for every
instruction and every action of the operator. Not the spec's but the model's: that FLAGS bits 12 to 15 stand so after the
reset event (entry 3; R35 leaves all 16 bits unspecified), that a latch keeps its value between OUTs (entry 19, K3), and
that an operator action takes a step of its own (entry 8). -/
def Obligations.EveryStepKeepsTheInvariant : Prop :=
  ∀ s t : State, s.Inv → step s = .next t → t.Inv

/-- A CPU that has not started does nothing until Button 2 (10_state.md R33, 70_reset_and_hazards.md R332): Button 2 changes
the run state and nothing else, no action and Buttons 1 and 3 change nothing. That an action takes a step of its own is
the model's choice (entry 8). -/
def Obligations.OnlyButtonTwoStartsTheCpu : Prop :=
  ∀ s : State, s.runState = .notStarted →
    (s.operator = [] → step s = .next s) ∧
    ∀ action rest, s.operator = action :: rest → action ≠ .reset →
      step s = .next { s with operator := rest, runState := if action = .button2 then .running else .notStarted }

/-- A halted CPU never faults and stays as it is, and only the reset event leaves the halted state, to NotStarted (10_state.md
R33, 70_reset_and_hazards.md R331). That a halted machine steps to itself is the model's choice (entry 10). -/
def Obligations.HaltedIsLeftOnlyByReset : Prop :=
  ∀ s : State, s.runState = .halted → ∃ t, step s = .next t ∧
    ((t = { s with operator := s.operator.tail } ∧ s.operator.head? ≠ some .reset) ∨
     (t.runState = .notStarted ∧ s.operator.head? = some .reset))

/-- The buttons leave a running CPU as it is: Buttons 1 and 3 have no architectural effect and Button 2 pressed again has
none (10_state.md R33, 70_reset_and_hazards.md R337). That a button takes a step of its own, in which the CPU executes no
instruction, is the model's choice (entry 8). -/
def Obligations.ButtonsLeaveARunningCpuAlone : Prop :=
  ∀ (s : State) (action : OperatorAction) (rest : List OperatorAction), s.runState = .running →
    s.operator = action :: rest → action ∈ [OperatorAction.button1, .button2, .button3] →
      step s = .next { s with operator := rest }

/-- The reset event, in any run state, puts the machine into R35's table: not started, `pc` at `RESET_PC`, the RAM as its
image, no events, the ROM as loaded (10_state.md R38, 70_reset_and_hazards.md R330). The registers, FLAGS and the latches
take the values the model names for reset (entries 2, 3, 4, 9). -/
def Obligations.ResetEventRestoresTheStartState : Prop :=
  ∀ (s : State) (rest : List OperatorAction), s.operator = .reset :: rest → ∃ t, step s = .next t ∧
    t.runState = .notStarted ∧ t.pc.toNat = s.cfg.resetPc.val ∧ (∀ a, t.ramWord a = Memory.read s.ramImage a) ∧
    t.events = [] ∧ t.rom = s.rom ∧ t.ramImage = s.ramImage ∧ t.cfg = s.cfg ∧ t.operator = rest ∧
    SameRegs State.reset t ∧ t.flags = State.reset.flags ∧ (∀ p, t.outPort p = State.reset.outPort p) ∧ SameSupply s t

/-! One step. -/

/-- A step of a running CPU executes the instruction that the word at `pc` decodes to (20_memory.md R57). The only thing the
step adds around the instruction is that an `idle` of the operator's list is used up, which is the model's choice (entry 8). -/
def Obligations.StepRunsTheDecodedInstruction : Prop :=
  ∀ (s : State) (w : InstrWord) (i : Instr), CpuRuns s → s.pc.toNat < romEntries →
    Memory.read s.rom s.pc.toNat = some w → decode w = .instr i → step s = exec i (afterIdle s)

/-- A fetch at 13,312 or above, or where the program has no entry, ends in FetchOutOfRange, and a word that decodes to
nothing ends in IllegalEncoding with the decoder's reason (60_exceptions.md R303, R305, R309). -/
def Obligations.FetchAndDecodeFaultsAreReported : Prop :=
  ∀ s : State, CpuRuns s →
    (romEntries ≤ s.pc.toNat → step s = .fault (.fetchOutOfRange s.pc)) ∧
    (Memory.read s.rom s.pc.toNat = none → step s = .fault (.fetchOutOfRange s.pc)) ∧
    ∀ w reason, s.pc.toNat < romEntries → Memory.read s.rom s.pc.toNat = some w → decode w = .illegal reason →
      step s = .fault (.illegalEncoding w reason)

/-- Every word with a Reserved identifier, whatever its other bits, ends in ReservedInstruction with that identifier
(30_encoding.md R91); so does each of the 14 Reserved rows in every state. -/
def Obligations.ReservedIdentifiersFault : Prop :=
  (∀ (s : State) (w : InstrWord), CpuRuns s → s.pc.toNat < romEntries → Memory.read s.rom s.pc.toNat = some w →
    (w >>> 24).toNat ∈ reservedIds →
    step s = .fault (.reservedInstruction (BitVec.ofNat 8 (w >>> 24).toNat))) ∧
  ∀ (rest : BitVec 24) (s : State),
    exec (.reserved2C rest) s = .fault (.reservedInstruction 0x2C#8) ∧
    exec (.reserved2D rest) s = .fault (.reservedInstruction 0x2D#8) ∧
    exec (.reserved2E rest) s = .fault (.reservedInstruction 0x2E#8) ∧
    exec (.reserved3C rest) s = .fault (.reservedInstruction 0x3C#8) ∧
    exec (.reserved3D rest) s = .fault (.reservedInstruction 0x3D#8) ∧
    exec (.reserved3E rest) s = .fault (.reservedInstruction 0x3E#8) ∧
    exec (.reserved3F rest) s = .fault (.reservedInstruction 0x3F#8) ∧
    exec (.reserved4C rest) s = .fault (.reservedInstruction 0x4C#8) ∧
    exec (.reserved4D rest) s = .fault (.reservedInstruction 0x4D#8) ∧
    exec (.reserved4E rest) s = .fault (.reservedInstruction 0x4E#8) ∧
    exec (.reserved5C rest) s = .fault (.reservedInstruction 0x5C#8) ∧
    exec (.reserved5D rest) s = .fault (.reservedInstruction 0x5D#8) ∧
    exec (.reserved5E rest) s = .fault (.reservedInstruction 0x5E#8) ∧
    exec (.reserved5F rest) s = .fault (.reservedInstruction 0x5F#8)

/-! Encoding and decoding. -/

/-- Every word with one of the 168 identifiers that are neither named nor Reserved is refused as unlisted: no listed neighbour
is aliased (30_encoding.md R92, decision D9). -/
def Obligations.UnlistedIdentifiersAreRefused : Prop :=
  ∀ w : InstrWord,
    let I := (w >>> 24).toNat
    (0x01 ≤ I ∧ I ≤ 0x03) ∨ (0x05 ≤ I ∧ I ≤ 0x07) ∨ (0x09 ≤ I ∧ I ≤ 0x0F) ∨ (0x60 ≤ I ∧ I ≤ 0xBF) ∨
      (0xC1 ≤ I ∧ I ≤ 0xC3) ∨ (0xC5 ≤ I ∧ I ≤ 0xC7) ∨ (0xC9 ≤ I ∧ I ≤ 0xCB) ∨ (0xCD ≤ I ∧ I ≤ 0xCF) ∨
      0xD1 ≤ I →
    decode w = .illegal .unlistedIdentifier

/-- The decode function (30_encoding.md R94), its checks in their order: a Reserved identifier, an identifier that is not named,
an argument count that is not admitted, a D on an instruction without destination, a padding bit; every other word decodes
to one machine instruction, whose canonical encoding is the word with its ignored bits cleared, and 0x4F decodes to MOV. The
refusals are the spec's own decisions D6 to D9. -/
def Obligations.DecodingMakesItsChecksInOrder : Prop :=
  ∀ w : InstrWord,
    let I := (w >>> 24).toNat
    let AA := (w >>> 22).toNat % 4
    let D := (w >>> 16).toNat % 16
    if I ∈ reservedIds then
      ∃ i, decode w = .instr i ∧ ∀ s, exec i s = .fault (.reservedInstruction (BitVec.ofNat 8 I))
    else if admittedCounts I = [] then decode w = .illegal .unlistedIdentifier
    else if AA ∉ admittedCounts I then decode w = .illegal .argumentCount
    else if I ∈ bareIds ∧ D ≠ 0 then decode w = .illegal .destination
    else (Padded w → decode w = .illegal .padding) ∧
      (¬ Padded w → ∃ i, decode w = .instr i ∧ i.WellFormed ∧ encode i = canonicalWord w ∧
        (I = 0x4F → ∃ d a, i = .mov d a))

/-- The canonical encoding of every machine instruction decodes to it, with every operand at every value its field admits
(30_encoding.md R94, R96). -/
def Obligations.EncodedInstructionsDecodeToThemselves : Prop :=
  ∀ i : Instr, i.WellFormed → decode (encode i) = .instr i

/-- The other direction: a word that decodes to an instruction is that instruction's canonical encoding up to the bits the
source calls ignored, so decoding drops no bit but those and admits no padding, no argument count and no D but the
encoding's own (30_encoding.md R87, R88, R89, R93). A Reserved word is kept whole. -/
def Obligations.DecodedWordsAreCanonicalUpToIgnoredBits : Prop :=
  ∀ (w : InstrWord) (i : Instr), decode w = .instr i →
    (i.isReserved = false → encode i = canonicalWord w) ∧ (i.isReserved = true → encode i = w)

/-- LDI is a second name of MOV: the two have one word, it decodes to MOV, and they have one effect (43_set.md R224). -/
def Obligations.LdiIsAnotherNameOfMov : Prop :=
  ∀ (d : RegId) (a : Arg), encode (.ldi d a) = encode (.mov d a) ∧ decode (encode (.ldi d a)) = .instr (.mov d a) ∧
    ∀ s, exec (.ldi d a) s = exec (.mov d a) s

/-- A few words written out from the spec's encoding decode as the spec says (30_encoding.md R96, 95_test_vectors.md). -/
def Obligations.SampleWordsDecode : Prop :=
  decode 0x10A12005#32 = .instr (.add 1 (.regImm 2 5)) ∧ decode 0x19620001#32 = .instr (.not 2 (.reg 1)) ∧
  decode 0x2F400010#32 = .instr (.brn (.imm 0x10)) ∧ decode 0x4083AA55#32 = .instr (.sgt 3 (.two (.immImm 0xAA 0x55))) ∧
  decode 0xC46E000F#32 = .instr (.str 14 (.reg 15)) ∧ decode 0xD09812C2#32 = .instr (.gfxsp 8 (.immReg 0x12C 2)) ∧
  decode 0x0030FFFF#32 = .instr .nop ∧ decode 0x10B31102#32 = .illegal .padding ∧
  decode 0x00010000#32 = .illegal .destination

/-- Operand values (30_encoding.md R85, R86): a register operand is the register; a 16-bit immediate is itself; a shorter one
keeps its unsigned value under `IMM_EXT = zero` and its signed value under `IMM_EXT = sign`; an absent B of a set instruction
is 0. -/
def Obligations.OperandValuesAreWidened : Prop :=
  ∀ s : State,
    (∀ a, s.valArg (.imm a) = a) ∧ (∀ r, s.valArg (.reg r) = s.reg r) ∧
    (∀ r b, s.valA (.regImm r b) = s.reg r) ∧ (∀ a r, s.valB (.immReg a r) = s.reg r) ∧
    (∀ r q, s.valA (.regReg r q) = s.reg r ∧ s.valB (.regReg r q) = s.reg q) ∧
    (s.cfg.immExt = .zero → (∀ a b, (s.valA (.immImm a b)).toNat = a.toNat ∧ (s.valB (.immImm a b)).toNat = b.toNat) ∧
      (∀ r b, (s.valB (.regImm r b)).toNat = b.toNat) ∧ (∀ a r, (s.valA (.immReg a r)).toNat = a.toNat)) ∧
    (s.cfg.immExt = .sign → (∀ a b, (s.valA (.immImm a b)).toInt = a.toInt ∧ (s.valB (.immImm a b)).toInt = b.toInt) ∧
      (∀ r b, (s.valB (.regImm r b)).toInt = b.toInt) ∧ (∀ a r, (s.valA (.immReg a r)).toInt = a.toInt)) ∧
    (∀ ab, s.valSetA (.two ab) = s.valA ab ∧ s.valSetB (.two ab) = s.valB ab) ∧
    ∀ a, s.valSetA (.one a) = s.valArg a ∧ s.valSetB (.one a) = 0

/-! Control instructions. -/

/-- NOP (40_control.md R120): it decodes from every word with identifier 0, no argument and D = 0, whatever the ignored bits;
the other words with that identifier are refused (decisions D7, D8); a ROM entry the program does not define is no NOP; and it changes nothing
but `pc`, in 4 clock cycles. -/
def Obligations.NopOnlyAdvances : Prop :=
  (∀ w : InstrWord, (w >>> 24).toNat = 0 → decode w =
    if (w >>> 22).toNat % 4 ≠ 0 then .illegal .argumentCount
    else if (w >>> 16).toNat % 16 ≠ 0 then .illegal .destination
    else .instr .nop) ∧
  encode .nop = 0x00000000#32 ∧
  (∀ s : State, CpuRuns s → Memory.read s.rom s.pc.toNat = none → step s = .fault (.fetchOutOfRange s.pc)) ∧
  ∀ s : State, ∃ t, exec .nop s = .next t ∧ NextInSequence s t ∧ SameRegs s t ∧ t.flags = s.flags ∧ SameRam s t ∧
    SameOutputs s t ∧ SameFixed s t ∧ SameSupply s t

/-- STL (40_control.md R121, 70_reset_and_hazards.md R341) completes in every state and changes nothing but `pc`, after a
delay that depends on its argument and is left open (entry 16). -/
def Obligations.StlOnlyDelays : Prop :=
  ∀ (a : Arg) (s : State), ∃ t, exec (.stl a) s = .next t ∧
    t.pc.toNat = (s.pc.toNat + 1) % 2 ^ s.cfg.pcWidth.bits ∧ t.runState = s.runState ∧
    t.clocks = s.clocks + Config.stlClocks (s.valArg a) s.clocks ∧ SameRegs s t ∧ t.flags = s.flags ∧ SameRam s t ∧
    SameOutputs s t ∧ SameFixed s t ∧ SameSupply s t

/-- HLT (40_control.md R122) completes in every state: the run state becomes Halted, `pc` keeps the address of the HLT (decision
D29), and everything else keeps its value. -/
def Obligations.HltHaltsInPlace : Prop :=
  ∀ s : State, ∃ t, exec .hlt s = .next t ∧ t.runState = .halted ∧ t.pc = s.pc ∧ t.clocks = s.clocks + 4 ∧
    SameRegs s t ∧ t.flags = s.flags ∧ SameRam s t ∧ SameOutputs s t ∧ SameFixed s t ∧ SameSupply s t

/-! ALU instructions. Each completes in every state, with every operand form. -/

/-- ADD (41_alu.md R131, R132): the sum modulo 2^16; C is the carry out of bit 15 and OF says that the signed sum does not
fit (decision D13). -/
def Obligations.AddGivesTheSumAndItsFlags : Prop :=
  ∀ (d : RegId) (ab : Args) (s : State), ∃ t v, exec (.add d ab) s = .next t ∧
    v.toNat = ((s.valA ab).toNat + (s.valB ab).toNat) % 65536 ∧ AluEffect d v s t ∧
    ComparisonFlags (s.valA ab) (s.valB ab) t ∧ t.draws = s.draws ∧
    t.flags.getLsbD 10 = decide (65536 ≤ (s.valA ab).toNat + (s.valB ab).toNat) ∧
    t.flags.getLsbD 11 = decide ((s.valA ab).toInt + (s.valB ab).toInt < -32768 ∨
      32767 < (s.valA ab).toInt + (s.valB ab).toInt)

/-- SUB (41_alu.md R131, R133): the difference modulo 2^16; C is the borrow, or its inverse under `SUB_C_SENSE = carry`
(decision D12), and OF says that the signed difference does not fit (decision D13). -/
def Obligations.SubGivesTheDifferenceAndItsFlags : Prop :=
  ∀ (d : RegId) (ab : Args) (s : State), ∃ t v, exec (.sub d ab) s = .next t ∧
    v.toNat = ((s.valA ab).toNat + 65536 - (s.valB ab).toNat) % 65536 ∧ AluEffect d v s t ∧
    ComparisonFlags (s.valA ab) (s.valB ab) t ∧ t.draws = s.draws ∧
    (s.cfg.subCSense = .borrow → t.flags.getLsbD 10 = decide ((s.valA ab).toNat < (s.valB ab).toNat)) ∧
    (s.cfg.subCSense = .carry → t.flags.getLsbD 10 = decide ((s.valB ab).toNat ≤ (s.valA ab).toNat)) ∧
    t.flags.getLsbD 11 = decide ((s.valA ab).toInt - (s.valB ab).toInt < -32768 ∨
      32767 < (s.valA ab).toInt - (s.valB ab).toInt)

/-- RSHIFT and LSHIFT (41_alu.md R134, R135, R150): by an amount of 0 to 15 the quotient by, or the product with, the power of
two; by 16 or more any word, 0, or the shift by the amount modulo 16, as `SHIFT_OVER` says. C and OF are free bits. -/
def Obligations.ShiftsAreLogical : Prop :=
  ∀ (d : RegId) (ab : Args) (s : State),
    let a := (s.valA ab).toNat
    let b := (s.valB ab).toNat
    (∃ t v, exec (.rshift d ab) s = .next t ∧ AluEffect d v s t ∧ ComparisonFlags (s.valA ab) (s.valB ab) t ∧
      FreeCarryAndOverflow s t ∧
      (b < 16 → v.toNat = a / 2 ^ b) ∧
      (16 ≤ b → s.cfg.shiftOver = .draw → v = Config.freeShift s.draws) ∧
      (16 ≤ b → s.cfg.shiftOver = .zero → v.toNat = 0) ∧
      (16 ≤ b → s.cfg.shiftOver = .mod16 → v.toNat = a / 2 ^ (b % 16))) ∧
    (∃ t v, exec (.lshift d ab) s = .next t ∧ AluEffect d v s t ∧ ComparisonFlags (s.valA ab) (s.valB ab) t ∧
      FreeCarryAndOverflow s t ∧
      (b < 16 → v.toNat = a * 2 ^ b % 65536) ∧
      (16 ≤ b → s.cfg.shiftOver = .draw → v = Config.freeShift s.draws) ∧
      (16 ≤ b → s.cfg.shiftOver = .zero → v.toNat = 0) ∧
      (16 ≤ b → s.cfg.shiftOver = .mod16 → v.toNat = a * 2 ^ (b % 16) % 65536))

/-- The four multiplies (41_alu.md R136 to R139) give the lower or the upper half of the exact product, unsigned or signed.
C and OF are free bits. -/
def Obligations.MultipliesGiveHalvesOfTheProduct : Prop :=
  AluRule .mul (fun a b v => v.toNat = a.toNat * b.toNat % 65536) ∧
  AluRule .smul (fun a b v => (65536 : Int) ∣ a.toInt * b.toInt - v.toNat) ∧
  AluRule .umul (fun a b v => v.toNat = a.toNat * b.toNat / 65536) ∧
  AluRule .sumul (fun a b v => v.toInt = a.toInt * b.toInt / 65536)

/-- PASS copies and NOT complements their one argument (41_alu.md R140, R141). The five comparison flags are free bits under
`ONEARG_B = draw` and compare the argument with 0 under `ONEARG_B = zero` (R37); C and OF are free bits. -/
def Obligations.PassCopiesAndNotComplements : Prop :=
  ∀ (d : RegId) (a : Arg) (s : State),
    (∃ t, exec (.pass d a) s = .next t ∧ AluEffect d (s.valArg a) s t ∧ FreeCarryAndOverflow s t ∧
      (s.cfg.oneArgB = .draw → ∀ n < 5, t.flags.getLsbD n = (Config.freeFlags s.draws).getLsbD n) ∧
      (s.cfg.oneArgB = .zero → ComparisonFlags (s.valArg a) 0 t)) ∧
    (∃ t v, exec (.not d a) s = .next t ∧ v.toNat = 65535 - (s.valArg a).toNat ∧ AluEffect d v s t ∧
      FreeCarryAndOverflow s t ∧
      (s.cfg.oneArgB = .draw → ∀ n < 5, t.flags.getLsbD n = (Config.freeFlags s.draws).getLsbD n) ∧
      (s.cfg.oneArgB = .zero → ComparisonFlags (s.valArg a) 0 t))

/-- The six bitwise instructions (41_alu.md R142 to R147) act on each of the 16 bits. C and OF are free bits. -/
def Obligations.LogicActsOnEachBit : Prop :=
  AluRule .and (fun a b v => ∀ k < 16, v.getLsbD k = (a.getLsbD k && b.getLsbD k)) ∧
  AluRule .or (fun a b v => ∀ k < 16, v.getLsbD k = (a.getLsbD k || b.getLsbD k)) ∧
  AluRule .xor (fun a b v => ∀ k < 16, v.getLsbD k = (a.getLsbD k ^^ b.getLsbD k)) ∧
  AluRule .nand (fun a b v => ∀ k < 16, v.getLsbD k = !(a.getLsbD k && b.getLsbD k)) ∧
  AluRule .nor (fun a b v => ∀ k < 16, v.getLsbD k = !(a.getLsbD k || b.getLsbD k)) ∧
  AluRule .xnor (fun a b v => ∀ k < 16, v.getLsbD k = !(a.getLsbD k ^^ b.getLsbD k))

/-- The relations between FLAGS bits that 10_state.md R28 derives: after each of the 14 two-argument ALU instructions
exactly one of GT, LT, EQ, exactly one of SGT, SLT, EQ and exactly one of Z, S, POS is 1 and bits 12 to 15 are constant; after PASS and NOT
the last two hold. -/
def Obligations.FlagsAreExclusiveAfterAnAluInstruction : Prop :=
  ExclusiveFlags .add ∧ ExclusiveFlags .sub ∧ ExclusiveFlags .rshift ∧ ExclusiveFlags .lshift ∧
  ExclusiveFlags .mul ∧ ExclusiveFlags .smul ∧ ExclusiveFlags .umul ∧ ExclusiveFlags .sumul ∧
  ExclusiveFlags .and ∧ ExclusiveFlags .or ∧ ExclusiveFlags .xor ∧ ExclusiveFlags .nand ∧
  ExclusiveFlags .nor ∧ ExclusiveFlags .xnor ∧
  ∀ (mk : RegId → Arg → Instr), mk = Instr.pass ∨ mk = Instr.not → ∀ d a (s t : State), exec (mk d a) s = .next t →
    ExactlyOne (t.flags.getLsbD 5) (t.flags.getLsbD 6) (t.flags.getLsbD 7) ∧
    t.flags.getLsbD 12 = false ∧ t.flags.getLsbD 13 = false ∧ t.flags.getLsbD 14 = false ∧ t.flags.getLsbD 15 = true

/-- No multiply loses a bit across the pair (41_alu.md R149): MUL with UMUL give the whole unsigned product, SMUL with SUMUL the
whole signed product, and MUL and SMUL give the same result and the same defined flags (R136 to R139). Register 0, which
holds no half, is the matter of `MultipliesGiveHalvesOfTheProduct`. -/
def Obligations.MultiplyPairsGiveTheWholeProduct : Prop :=
  ∀ (d e : RegId) (ab : Args) (s l u sl su : State), d ≠ 0 → e ≠ 0 →
    exec (.mul d ab) s = .next l → exec (.umul e ab) s = .next u →
    exec (.smul d ab) s = .next sl → exec (.sumul e ab) s = .next su →
    (u.reg e).toNat * 65536 + (l.reg d).toNat = (s.valA ab).toNat * (s.valB ab).toNat ∧
    (su.reg e).toInt * 65536 + (sl.reg d).toNat = (s.valA ab).toInt * (s.valB ab).toInt ∧
    l.reg d = sl.reg d ∧ ∀ n, n ≠ 10 → n ≠ 11 → l.flags.getLsbD n = sl.flags.getLsbD n

/-! Branches. -/

/-- BGT to BOF (42_branch.md R171 to R182): each branches to its target exactly when its flag is 1 (decision D18). -/
def Obligations.BranchesOnASetFlag : Prop :=
  BranchRule .bgt 0 true ∧ BranchRule .blt 1 true ∧ BranchRule .bsgt 2 true ∧
  BranchRule .bslt 3 true ∧ BranchRule .beq 4 true ∧ BranchRule .bz 5 true ∧
  BranchRule .bneg 6 true ∧ BranchRule .bpos 7 true ∧ BranchRule .bev 8 true ∧
  BranchRule .bbev 9 true ∧ BranchRule .bc 10 true ∧ BranchRule .bof 11 true

/-- BLE to BNOF (42_branch.md R184 to R195): each branches to its target exactly when its flag is 0 (decision D18). -/
def Obligations.BranchesOnAClearFlag : Prop :=
  BranchRule .ble 0 false ∧ BranchRule .bge 1 false ∧ BranchRule .bsle 2 false ∧
  BranchRule .bsge 3 false ∧ BranchRule .bneq 4 false ∧ BranchRule .bnz 5 false ∧
  BranchRule .bposz 6 false ∧ BranchRule .bnegz 7 false ∧ BranchRule .bod 8 false ∧
  BranchRule .bbod 9 false ∧ BranchRule .bnc 10 false ∧ BranchRule .bnof 11 false

/-- BRN (42_branch.md R183) always branches: it completes in every state, reads no flag and changes nothing but `pc`. -/
def Obligations.BrnAlwaysBranches : Prop :=
  ∀ (a : Arg) (s : State) (f : Word), ∃ t, exec (.brn a) { s with flags := f } = .next t ∧ BranchesTo (s.valArg a) s t ∧
    SameRegs s t ∧ t.flags = f ∧ SameRam s t ∧ SameOutputs s t ∧ SameFixed s t ∧ SameSupply s t

/-- The twelve pairs of branches are complementary: exactly one of each pair is taken, whatever FLAGS holds (42_branch.md R170,
95_test_vectors.md part 4). -/
def Obligations.BranchPairsAreComplementary : Prop :=
  Complementary .bgt .ble ∧ Complementary .blt .bge ∧ Complementary .bsgt .bsle ∧
  Complementary .bslt .bsge ∧ Complementary .beq .bneq ∧ Complementary .bz .bnz ∧
  Complementary .bneg .bposz ∧ Complementary .bpos .bnegz ∧ Complementary .bev .bod ∧
  Complementary .bbev .bbod ∧ Complementary .bc .bnc ∧ Complementary .bof .bnof

/-- After the compare `SUB $0 A B` the comparison branches are taken exactly when the operands compared stand in the named
relation, unsigned or signed, right even when the subtraction overflows (42_branch.md R171 to R175, R184 to R188; 41_alu.md
R148). -/
def Obligations.CompareThenBranchFollowsTheComparison : Prop :=
  TakenAfterCompare .bgt (fun a b => a.toNat > b.toNat) ∧ TakenAfterCompare .blt (fun a b => a.toNat < b.toNat) ∧
  TakenAfterCompare .bsgt (fun a b => a.toInt > b.toInt) ∧ TakenAfterCompare .bslt (fun a b => a.toInt < b.toInt) ∧
  TakenAfterCompare .beq (fun a b => a = b) ∧ TakenAfterCompare .bz (fun a b => a = b) ∧
  TakenAfterCompare .ble (fun a b => a.toNat ≤ b.toNat) ∧ TakenAfterCompare .bge (fun a b => a.toNat ≥ b.toNat) ∧
  TakenAfterCompare .bsle (fun a b => a.toInt ≤ b.toInt) ∧ TakenAfterCompare .bsge (fun a b => a.toInt ≥ b.toInt) ∧
  TakenAfterCompare .bneq (fun a b => a ≠ b) ∧ TakenAfterCompare .bnz (fun a b => a ≠ b)

/-! Set instructions. -/

/-- SGT to SOF (43_set.md R211 to R222): A when the flag is 1, otherwise B, 0 if absent. -/
def Obligations.SelectsOnASetFlag : Prop :=
  SelectRule .sgt 0 true ∧ SelectRule .slt 1 true ∧ SelectRule .ssgt 2 true ∧
  SelectRule .sslt 3 true ∧ SelectRule .seq 4 true ∧ SelectRule .sz 5 true ∧
  SelectRule .sneg 6 true ∧ SelectRule .spos 7 true ∧ SelectRule .sev 8 true ∧
  SelectRule .sbev 9 true ∧ SelectRule .sc 10 true ∧ SelectRule .sof 11 true

/-- SLE to SNOF (43_set.md R225 to R236): A when the flag is 0, otherwise B, 0 if absent. -/
def Obligations.SelectsOnAClearFlag : Prop :=
  SelectRule .sle 0 false ∧ SelectRule .sge 1 false ∧ SelectRule .ssle 2 false ∧
  SelectRule .ssge 3 false ∧ SelectRule .sneq 4 false ∧ SelectRule .snz 5 false ∧
  SelectRule .sposz 6 false ∧ SelectRule .snegz 7 false ∧ SelectRule .sod 8 false ∧
  SelectRule .sbod 9 false ∧ SelectRule .snc 10 false ∧ SelectRule .snof 11 false

/-- MOV and LDI (43_set.md R223, R224) copy their argument, complete in every state and neither read nor write FLAGS. -/
def Obligations.MovAndLdiCopy : Prop :=
  ∀ (d : RegId) (a : Arg) (s : State) (f : Word), ∃ t, exec (.mov d a) { s with flags := f } = .next t ∧
    exec (.ldi d a) { s with flags := f } = .next t ∧ Holds d (s.valArg a) t ∧ SameRegsBut d s t ∧ t.flags = f ∧
    SameRam s t ∧ SameOutputs s t ∧ SameFixed s t ∧ SameSupply s t ∧ NextInSequence s t

/-- After the compare `SUB $0 $p $q` SGT and SSGT give the unsigned and the signed maximum, SLT and SSLT the minimum of the two
registers (43_set.md R211 to R214, R237). -/
def Obligations.CompareThenSelectGivesMaximumAndMinimum : Prop :=
  SelectAfterCompare .sgt (fun a b v => v.toNat = max a.toNat b.toNat) ∧
  SelectAfterCompare .slt (fun a b v => v.toNat = min a.toNat b.toNat) ∧
  SelectAfterCompare .ssgt (fun a b v => v.toInt = max a.toInt b.toInt) ∧
  SelectAfterCompare .sslt (fun a b v => v.toInt = min a.toInt b.toInt)

/-! Memory, ports and the display. -/

/-- LOD (44_memory_io.md R251) of a RAM word that holds a value puts it into `x[D]` and changes nothing else but `pc`. The
word is the address itself below 8,192, and the address modulo 8,192 above under `RAM_OOB = wrap13` (20_memory.md R52). -/
def Obligations.LodReadsTheHeldWord : Prop :=
  ∀ (d : RegId) (a : Arg) (s : State) (v : Word),
    (s.valArg a).toNat < 8192 ∨ s.cfg.ramOob = .wrap13 → s.ramWord ((s.valArg a).toNat % 8192) = some v →
    ∃ t, exec (.lod d a) s = .next t ∧ Holds d v t ∧ SameRegsBut d s t ∧ t.flags = s.flags ∧ SameRam s t ∧
      SameOutputs s t ∧ SameFixed s t ∧ SameSupply s t ∧ NextInSequence s t

/-- LOD of a RAM word that holds no value (10_state.md R36, 20_memory.md R52): under `UNWRITTEN = fault` it ends in UnwrittenRead;
under `draw` it gives a free word, which the RAM holds from then on. -/
def Obligations.LodOfAnUnwrittenWord : Prop :=
  ∀ (d : RegId) (a : Arg) (s : State),
    (s.valArg a).toNat < 8192 ∨ s.cfg.ramOob = .wrap13 → s.ramWord ((s.valArg a).toNat % 8192) = none →
    (s.cfg.unwritten = .fault → exec (.lod d a) s = .fault (.unwrittenRead ((s.valArg a).toNat % 8192))) ∧
    (s.cfg.unwritten = .draw → ∃ t, exec (.lod d a) s = .next t ∧ Holds d (Config.freeRam s.draws) t ∧
      t.ramWord ((s.valArg a).toNat % 8192) = some (Config.freeRam s.draws) ∧ t.draws = s.draws + 1 ∧
      SameRegsBut d s t ∧ t.flags = s.flags ∧ SameRamBut ((s.valArg a).toNat % 8192) s t ∧ SameOutputs s t ∧
      SameFixed s t ∧ t.inputs = s.inputs ∧ NextInSequence s t)

/-- LOD and STR at an address of 8,192 or more end in RamOutOfRange under `RAM_OOB = fault` (60_exceptions.md R306). -/
def Obligations.RamOutOfRangeFaults : Prop :=
  ∀ (d : RegId) (a : Arg) (s : State), 8192 ≤ (s.valArg a).toNat → s.cfg.ramOob = .fault →
    exec (.lod d a) s = .fault (.ramOutOfRange (s.valArg a)) ∧ exec (.str d a) s = .fault (.ramOutOfRange (s.valArg a))

/-- The RAM write `MemWrite` (20_memory.md R53): at 8,192 and above under `RAM_OOB = fault` it raises RamOutOfRange; otherwise
it replaces the whole word at the address, taken modulo 8,192 under `wrap13`, the word then holds a value, and nothing else
in the state changes. -/
def Obligations.RamWriteReplacesOneWord : Prop :=
  ∀ (s : State) (addr v : Word),
    (8192 ≤ addr.toNat → s.cfg.ramOob = .fault → s.memWrite addr v = .error (.ramOutOfRange addr)) ∧
    (addr.toNat < 8192 ∨ s.cfg.ramOob = .wrap13 → ∃ t, s.memWrite addr v = .ok t ∧
      t.ramWord (addr.toNat % 8192) = some v ∧ SameRamBut (addr.toNat % 8192) s t ∧ t = { s with ram := t.ram })

/-- STR (44_memory_io.md R252) puts `x[D]` into the one RAM word its address names and changes nothing else but `pc`: no
register, no flag, no other word (20_memory.md R53). -/
def Obligations.StrWritesOneWord : Prop :=
  ∀ (d : RegId) (a : Arg) (s : State), (s.valArg a).toNat < 8192 ∨ s.cfg.ramOob = .wrap13 →
    ∃ t, exec (.str d a) s = .next t ∧ t.ramWord ((s.valArg a).toNat % 8192) = some (s.reg d) ∧
      SameRamBut ((s.valArg a).toNat % 8192) s t ∧ SameRegs s t ∧ t.flags = s.flags ∧ SameOutputs s t ∧ SameFixed s t ∧
      SameSupply s t ∧ NextInSequence s t

/-- A LOD returns the value of the STR before it to the same address, whatever register holds the address (20_memory.md R60). -/
def Obligations.StoreThenLoadGivesTheStoredValue : Prop :=
  ∀ (d e : RegId) (a b : Arg) (s t : State), exec (.str d a) s = .next t → t.valArg b = s.valArg a →
    ∃ u, exec (.lod e b) t = .next u ∧ Holds e (s.reg d) u

/-- IN (44_memory_io.md R253, 20_memory.md R58) gives what the environment presents. A port number of 16 or more is taken
modulo 16 under `PORT_OOB = low4`. That the environment's values are one list for all ports, of which an IN takes the next,
and a free word of the port where the list is empty, is the model's choice (entry 13): R58 says only that the environment
supplies a value for that port. -/
def Obligations.InReadsTheEnvironment : Prop :=
  ∀ (d : RegId) (a : Arg) (s : State), (s.valArg a).toNat < 16 ∨ s.cfg.portOob = .low4 →
    ∃ t v, exec (.inPort d a) s = .next t ∧ Holds d v t ∧ SameRegsBut d s t ∧ t.flags = s.flags ∧ SameRam s t ∧
      SameOutputs s t ∧ SameFixed s t ∧ NextInSequence s t ∧
      (∀ rest w, s.inputs = w :: rest → v = w ∧ t.inputs = rest ∧ t.draws = s.draws) ∧
      (s.inputs = [] → t.inputs = [] ∧ t.draws = s.draws + 1 ∧
        v = Config.freeInput s.draws (BitVec.ofNat 4 ((s.valArg a).toNat % 16)))

/-- OUT (44_memory_io.md R254, 20_memory.md R59) sets the one output port its number names to `x[D]` and appends one event; it
changes nothing else but `pc`. That every other port keeps its level is the spec's general knowledge (K3; entry 19). -/
def Obligations.OutSetsTheLatchAndRecordsTheEvent : Prop :=
  ∀ (d : RegId) (a : Arg) (s : State), (s.valArg a).toNat < 16 ∨ s.cfg.portOob = .low4 →
    ∃ t p, exec (.outPort d a) s = .next t ∧ p.toNat = (s.valArg a).toNat % 16 ∧ t.outPort p = s.reg d ∧
      (∀ q, q ≠ p → t.outPort q = s.outPort q) ∧ t.events = s.events ++ [.out p (s.reg d)] ∧
      SameRegs s t ∧ t.flags = s.flags ∧ SameRam s t ∧ SameFixed s t ∧ SameSupply s t ∧ NextInSequence s t

/-- IN and OUT with a port number of 16 or more end in PortOutOfRange under `PORT_OOB = fault` (60_exceptions.md R307). -/
def Obligations.PortOutOfRangeFaults : Prop :=
  ∀ (d : RegId) (a : Arg) (s : State), 16 ≤ (s.valArg a).toNat → s.cfg.portOob = .fault →
    exec (.inPort d a) s = .fault (.portOutOfRange (s.valArg a)) ∧
    exec (.outPort d a) s = .fault (.portOutOfRange (s.valArg a))

/-- GFXSP (45_gfx.md R270, R271) completes in every state: it appends one request with all 16 bits of x, y and colour and changes
nothing else but `pc`. For every width and height of the screen, an observer of the display concludes of a request on the
screen that its pixel has that colour and every other pixel is as before (R273). R273 does not state the treatment of a
request off the screen, nor which numbers are columns and rows of the screen: that columns and rows count from 0, and that
a request off the screen leaves nothing known of any pixel, is the model's choice (entry 27). -/
def Obligations.GfxspSendsOneRequest : Prop :=
  ∀ (d : RegId) (ab : Args) (s : State), ∃ t, exec (.gfxsp d ab) s = .next t ∧
    t.events = s.events ++ [.gfx (s.valA ab) (s.valB ab) (s.reg d)] ∧
    (∀ screen : Screen,
      (onScreen screen (s.valA ab) (s.valB ab) →
        pixelValue screen t.events (s.valA ab) (s.valB ab) = some (s.reg d) ∧
        ∀ x y, x ≠ s.valA ab ∨ y ≠ s.valB ab → pixelValue screen t.events x y = pixelValue screen s.events x y) ∧
      (¬ onScreen screen (s.valA ab) (s.valB ab) → ∀ x y, pixelValue screen t.events x y = none) ∧
      ∀ x y, ¬ onScreen screen x y → pixelValue screen t.events x y = none) ∧
    (∀ p, t.outPort p = s.outPort p) ∧ SameRegs s t ∧ t.flags = s.flags ∧ SameRam s t ∧ SameFixed s t ∧ SameSupply s t ∧
    NextInSequence s t

/-! The whole machine. -/

/-- Only the ALU instructions 0x10 to 0x1F write FLAGS (10_state.md R27, decision D17). -/
def Obligations.OnlyAluInstructionsWriteFlags : Prop :=
  ∀ (i : Instr) (s t : State), exec i s = .next t → (encode i >>> 28).toNat ≠ 1 → t.flags = s.flags

/-- Registers 1 to 15 are read-write and hold any 16-bit value, and only an instruction that names one in its D field writes it:
the branches, NOP, STL, HLT, STR, OUT and GFXSP write none (10_state.md R23, 30_encoding.md R89). -/
def Obligations.OnlyTheDestinationIsWritten : Prop :=
  (∀ (s : State) (r : RegId) (v : Word), r ≠ 0 → (s.setReg r v).reg r = v ∧ SameRegsBut r s (s.setReg r v)) ∧
  ∀ (i : Instr) (s t : State), exec i s = .next t →
    SameRegsBut (BitVec.ofNat 4 ((encode i >>> 16).toNat % 16)) s t ∧
    ((encode i >>> 24).toNat < 0x10 ∨ (0x20 ≤ (encode i >>> 24).toNat ∧ (encode i >>> 24).toNat < 0x40) ∨
      (encode i >>> 24).toNat ∈ [0xC4, 0xCC, 0xD0] → SameRegs s t)

/-- Register 0 (10_state.md R22): a read gives 0 in every state; a write has no effect on any state; and an instruction with D = 0
still performs all its other effects: with D = 0 instead of D = d an ALU instruction loads the same FLAGS, a LOD makes the
same read of the RAM (and the same fault) and an IN takes the same input. The spec marks that last part as its own inference.
That the two executions compared draw the same values (C and OF, the result of an overlong shift, an unwritten RAM word, a
free input), since both begin with one draw counter, is the model's choice (entry 14). -/
def Obligations.RegisterZeroIsHardwired : Prop :=
  (∀ s : State, s.reg 0 = 0) ∧ (∀ (s : State) (v : Word), s.setReg 0 v = s) ∧
  (∀ (ab : Args) (a : Arg) (d : RegId) (s : State) (i j : Instr),
    (i, j) ∈ [(Instr.add 0 ab, Instr.add d ab), (.sub 0 ab, .sub d ab), (.rshift 0 ab, .rshift d ab),
      (.lshift 0 ab, .lshift d ab), (.mul 0 ab, .mul d ab), (.smul 0 ab, .smul d ab), (.umul 0 ab, .umul d ab),
      (.sumul 0 ab, .sumul d ab), (.pass 0 a, .pass d a), (.not 0 a, .not d a), (.and 0 ab, .and d ab), (.or 0 ab, .or d ab),
      (.xor 0 ab, .xor d ab), (.nand 0 ab, .nand d ab), (.nor 0 ab, .nor d ab), (.xnor 0 ab, .xnor d ab),
      (.lod 0 a, .lod d a), (.inPort 0 a, .inPort d a)] →
    (∀ f, exec i s = .fault f ↔ exec j s = .fault f) ∧
    ∀ t, exec i s = .next t → SameRegs s t ∧ ∃ u, exec j s = .next u ∧ u = { t with regs := u.regs })

/-- No instruction and no step writes the ROM: every fetch of an address returns the same word for the whole run, and a running
program cannot change an instruction (20_memory.md R62). The parameters and the RAM image are fixed too: they are fields of
the state that no step changes by the model's choice (entry 6), the image being loaded before the run
(70_reset_and_hazards.md R334). -/
def Obligations.NoStepChangesTheProgram : Prop :=
  (∀ (i : Instr) (s t : State), exec i s = .next t → t.rom = s.rom) ∧
  (∀ s t : State, step s = .next t → t.rom = s.rom ∧ t.ramImage = s.ramImage ∧ t.cfg = s.cfg) ∧
  ∀ (k : Nat) (s t : State), Host.Core.run Sys2Proof.core k s = .next t → t.rom = s.rom

/-- Only STR changes a RAM word that holds a value, and under `UNWRITTEN = fault` only STR gives one to a word that holds none
(20_memory.md R50, R60). Under `draw` a LOD gives it the drawn word (10_state.md R36). -/
def Obligations.OnlyStrChangesAHeldRamWord : Prop :=
  ∀ (i : Instr) (s t : State), exec i s = .next t → (∀ d a, i ≠ .str d a) →
    (∀ b v, s.ramWord b = some v → t.ramWord b = some v) ∧ (s.cfg.unwritten = .fault → SameRam s t)

/-- The event history only grows, by one event at each OUT and each GFXSP and by none at any other instruction
(10_state.md R32, 20_memory.md R60, R64). -/
def Obligations.EventsAreAppendedInProgramOrder : Prop :=
  ∀ (i : Instr) (s t : State), exec i s = .next t →
    ((encode i >>> 24).toNat = 0xCC ∨ (encode i >>> 24).toNat = 0xD0 → ∃ e, t.events = s.events ++ [e]) ∧
    ((encode i >>> 24).toNat ≠ 0xCC ∧ (encode i >>> 24).toNat ≠ 0xD0 → SameOutputs s t)

/-- Only HLT changes the run state: no other instruction stops the CPU or starts it (10_state.md R33, 60_exceptions.md R317). -/
def Obligations.OnlyHltChangesTheRunState : Prop :=
  ∀ (i : Instr) (s t : State), exec i s = .next t → i ≠ .hlt → t.runState = s.runState

/-- Every instruction but STL takes 4 clock cycles (70_reset_and_hazards.md R340). -/
def Obligations.EveryInstructionButStlTakesFourClocks : Prop :=
  ∀ (i : Instr) (s t : State), exec i s = .next t → (∀ a, i ≠ .stl a) → t.clocks = s.clocks + 4

/-- How `pc` changes (10_state.md R25): HLT leaves it; a branch ends at its target or at the next
instruction; every other instruction ends at the next instruction. -/
def Obligations.PcMovesInSequenceOrToATarget : Prop :=
  ∀ (i : Instr) (s t : State), exec i s = .next t →
    (i = .hlt ∧ t.pc = s.pc) ∨ (i ≠ .hlt ∧ t.pc.toNat = (s.pc.toNat + 1) % 2 ^ s.cfg.pcWidth.bits) ∨
    (∃ a, branchArg i = some a ∧ t.pc.toNat = (s.valArg a).toNat % 2 ^ s.cfg.pcWidth.bits)

/-- No instruction can tell what the output latches, the event history or the clock hold: in two states that differ in nothing
else, every instruction stops for the same reason or gives next states that differ in nothing else (10_state.md R32,
44_memory_io.md R254, 60_exceptions.md R313). The two states have one draw counter: that their executions then draw the same
flags, shift results, RAM words and inputs is the model's choice (entry 14). -/
def Obligations.OutputsAndTimeAreInvisible : Prop :=
  ∀ (i : Instr) (s : State) (out : Vector Word 16) (events : List Event) (clocks : Nat),
    let s' := { s with outPorts := out, events := events, clocks := clocks }
    (∀ f, exec i s = .fault f → exec i s' = .fault f) ∧
    ∀ t, exec i s = .next t → ∃ t', exec i s' = .next t' ∧
      t' = { t with outPorts := t'.outPorts, events := t'.events, clocks := t'.clocks }
end

