-- ==== Sys2Proof/Laws/Memory.lean ====
section
/-! SUPPORT. The laws of memories: a read after a write, and that every memory operation keeps the canonical form. -/

namespace Sys2Proof.Machine

variable {α : Type}

/-- A read gives what was written there last. -/
@[simp] theorem Memory.read_write_same (m : List (Nat × α)) (a : Nat) (v : α) :
    Memory.read (Memory.write m a v) a = some v := by
  induction m with
  | nil => simp [Memory.read, Memory.write]
  | cons c rest ih =>
    obtain ⟨k, w⟩ := c
    simp only [Memory.write]
    split
    · simp [Memory.read]
    · split
      · simp [Memory.read]
      · rename_i h
        simp [Memory.read, Ne.symm h, ih]

/-- A write leaves every other address alone. -/
theorem Memory.read_write_other (m : List (Nat × α)) (a b : Nat) (v : α) (h : b ≠ a) :
    Memory.read (Memory.write m a v) b = Memory.read m b := by
  induction m with
  | nil => simp [Memory.read, Memory.write, h.symm]
  | cons c rest ih =>
    obtain ⟨k, w⟩ := c
    simp only [Memory.write]
    split
    · simp [Memory.read, h.symm]
    · split
      · rename_i hak
        subst hak
        simp [Memory.read, h.symm]
      · simp [Memory.read, ih]

/-- A write within the bounds keeps the rising order. -/
theorem Memory.risesFrom_write (bound low : Nat) (m : List (Nat × α)) (a : Nat) (v : α)
    (hm : Memory.risesFrom bound low m = true) (hlow : low ≤ a) (ha : a < bound) :
    Memory.risesFrom bound low (Memory.write m a v) = true := by
  induction m generalizing low with
  | nil => simp [Memory.write, Memory.risesFrom, hlow, ha]
  | cons c rest ih =>
    obtain ⟨k, w⟩ := c
    simp only [Memory.risesFrom, Bool.and_eq_true, decide_eq_true_eq] at hm
    obtain ⟨⟨hk, hkb⟩, hrest⟩ := hm
    simp only [Memory.write]
    split
    · rename_i hak
      simp [Memory.risesFrom, hlow, ha, hkb, hrest]
      omega
    · split
      · rename_i hak
        subst hak
        simp [Memory.risesFrom, hlow, ha, hrest]
      · simp only [Memory.risesFrom, Bool.and_eq_true, decide_eq_true_eq]
        exact ⟨⟨hk, hkb⟩, ih (k + 1) hrest (by omega)⟩

/-- Every write at an address of the memory keeps the canonical form. -/
theorem Memory.wf_write (bound : Nat) (m : List (Nat × α)) (a : Nat) (v : α)
    (hm : Memory.wf bound m = true) (ha : a < bound) :
    Memory.wf bound (Memory.write m a v) = true :=
  Memory.risesFrom_write bound 0 m a v hm (Nat.zero_le a) ha

/-- The empty memory is in canonical form. -/
@[simp] theorem Memory.wf_nil (bound : Nat) : Memory.wf bound ([] : List (Nat × α)) = true := rfl

/-- A memory listed from consecutive addresses is in canonical form if it fits. -/
theorem Memory.risesFrom_ofList (bound a : Nat) (vs : List α) (h : a + vs.length ≤ bound) :
    Memory.risesFrom bound a (Memory.ofList a vs) = true := by
  induction vs generalizing a with
  | nil => rfl
  | cons v vs ih =>
    simp only [List.length_cons] at h
    have h1 : a < bound := by omega
    have h2 := ih (a + 1) (by omega)
    simp [Memory.ofList, Memory.risesFrom, h1, h2]

/-- What a memory in canonical form lists is below its bound. -/
theorem Memory.lt_of_read (bound low : Nat) (m : List (Nat × α)) (a : Nat) (v : α)
    (hm : Memory.risesFrom bound low m = true) (h : Memory.read m a = some v) : a < bound := by
  induction m generalizing low with
  | nil => simp [Memory.read] at h
  | cons c rest ih =>
    obtain ⟨k, w⟩ := c
    simp only [Memory.risesFrom, Bool.and_eq_true, decide_eq_true_eq] at hm
    simp only [Memory.read] at h
    split at h
    · omega
    · exact ih (k + 1) hm.2 h

/-- The memory of a state after a write to a word of RAM. -/
@[simp] theorem State.putRam_ramWord_same (s : State) (a : Nat) (v : Word) :
    (s.putRam a v).ramWord a = some v :=
  Memory.read_write_same s.ram a v

/-- Every other word of RAM reads as before. -/
theorem State.putRam_ramWord_other (s : State) (a b : Nat) (v : Word) (h : b ≠ a) :
    (s.putRam a v).ramWord b = s.ramWord b :=
  Memory.read_write_other s.ram a b v h

/-- A write to a word of RAM keeps the RAM's canonical form. -/
theorem State.putRam_wf (s : State) (a : Nat) (v : Word)
    (h : Memory.wf ramWords s.ram = true) (ha : a < ramWords) :
    Memory.wf ramWords (s.putRam a v).ram = true :=
  Memory.wf_write ramWords s.ram a v h ha

end Sys2Proof.Machine
end

