-- ==== Sys2Proof/Laws/State.lean ====
section
/-! SUPPORT. One lemma per field per update of the state: what each named update does to each field. -/

namespace Sys2Proof.Machine

@[simp] theorem State.setReg_pc (s : State) (r : RegId) (v : Word) : (s.setReg r v).pc = s.pc := by
  unfold State.setReg; split <;> rfl
@[simp] theorem State.setReg_flags (s : State) (r : RegId) (v : Word) : (s.setReg r v).flags = s.flags := by
  unfold State.setReg; split <;> rfl
@[simp] theorem State.setReg_runState (s : State) (r : RegId) (v : Word) : (s.setReg r v).runState = s.runState := by
  unfold State.setReg; split <;> rfl
@[simp] theorem State.setReg_ram (s : State) (r : RegId) (v : Word) : (s.setReg r v).ram = s.ram := by
  unfold State.setReg; split <;> rfl
@[simp] theorem State.setReg_rom (s : State) (r : RegId) (v : Word) : (s.setReg r v).rom = s.rom := by
  unfold State.setReg; split <;> rfl
@[simp] theorem State.setReg_ramImage (s : State) (r : RegId) (v : Word) : (s.setReg r v).ramImage = s.ramImage := by
  unfold State.setReg; split <;> rfl
@[simp] theorem State.setReg_outPorts (s : State) (r : RegId) (v : Word) : (s.setReg r v).outPorts = s.outPorts := by
  unfold State.setReg; split <;> rfl
@[simp] theorem State.setReg_events (s : State) (r : RegId) (v : Word) : (s.setReg r v).events = s.events := by
  unfold State.setReg; split <;> rfl
@[simp] theorem State.setReg_cfg (s : State) (r : RegId) (v : Word) : (s.setReg r v).cfg = s.cfg := by
  unfold State.setReg; split <;> rfl
@[simp] theorem State.setReg_inputs (s : State) (r : RegId) (v : Word) : (s.setReg r v).inputs = s.inputs := by
  unfold State.setReg; split <;> rfl
@[simp] theorem State.setReg_operator (s : State) (r : RegId) (v : Word) : (s.setReg r v).operator = s.operator := by
  unfold State.setReg; split <;> rfl
@[simp] theorem State.setReg_draws (s : State) (r : RegId) (v : Word) : (s.setReg r v).draws = s.draws := by
  unfold State.setReg; split <;> rfl
@[simp] theorem State.setReg_clocks (s : State) (r : RegId) (v : Word) : (s.setReg r v).clocks = s.clocks := by
  unfold State.setReg; split <;> rfl

@[simp] theorem State.advance_regs (s : State) : (s.advance).regs = s.regs := rfl
@[simp] theorem State.advance_pc (s : State) : (s.advance).pc = nextPc s.cfg s.pc := rfl
@[simp] theorem State.advance_flags (s : State) : (s.advance).flags = s.flags := rfl
@[simp] theorem State.advance_runState (s : State) : (s.advance).runState = s.runState := rfl
@[simp] theorem State.advance_ram (s : State) : (s.advance).ram = s.ram := rfl
@[simp] theorem State.advance_rom (s : State) : (s.advance).rom = s.rom := rfl
@[simp] theorem State.advance_ramImage (s : State) : (s.advance).ramImage = s.ramImage := rfl
@[simp] theorem State.advance_outPorts (s : State) : (s.advance).outPorts = s.outPorts := rfl
@[simp] theorem State.advance_events (s : State) : (s.advance).events = s.events := rfl
@[simp] theorem State.advance_cfg (s : State) : (s.advance).cfg = s.cfg := rfl
@[simp] theorem State.advance_inputs (s : State) : (s.advance).inputs = s.inputs := rfl
@[simp] theorem State.advance_operator (s : State) : (s.advance).operator = s.operator := rfl
@[simp] theorem State.advance_draws (s : State) : (s.advance).draws = s.draws := rfl
@[simp] theorem State.advance_clocks (s : State) : (s.advance).clocks = s.clocks + clocksPerInstruction := rfl

@[simp] theorem State.jump_regs (s : State) (t : Word) : (s.jump t).regs = s.regs := rfl
@[simp] theorem State.jump_pc (s : State) (t : Word) : (s.jump t).pc = truncPc s.cfg t := rfl
@[simp] theorem State.jump_flags (s : State) (t : Word) : (s.jump t).flags = s.flags := rfl
@[simp] theorem State.jump_runState (s : State) (t : Word) : (s.jump t).runState = s.runState := rfl
@[simp] theorem State.jump_ram (s : State) (t : Word) : (s.jump t).ram = s.ram := rfl
@[simp] theorem State.jump_rom (s : State) (t : Word) : (s.jump t).rom = s.rom := rfl
@[simp] theorem State.jump_ramImage (s : State) (t : Word) : (s.jump t).ramImage = s.ramImage := rfl
@[simp] theorem State.jump_outPorts (s : State) (t : Word) : (s.jump t).outPorts = s.outPorts := rfl
@[simp] theorem State.jump_events (s : State) (t : Word) : (s.jump t).events = s.events := rfl
@[simp] theorem State.jump_cfg (s : State) (t : Word) : (s.jump t).cfg = s.cfg := rfl
@[simp] theorem State.jump_inputs (s : State) (t : Word) : (s.jump t).inputs = s.inputs := rfl
@[simp] theorem State.jump_operator (s : State) (t : Word) : (s.jump t).operator = s.operator := rfl
@[simp] theorem State.jump_draws (s : State) (t : Word) : (s.jump t).draws = s.draws := rfl
@[simp] theorem State.jump_clocks (s : State) (t : Word) : (s.jump t).clocks = s.clocks + clocksPerInstruction := rfl

@[simp] theorem State.halt_regs (s : State) : (s.halt).regs = s.regs := rfl
@[simp] theorem State.halt_pc (s : State) : (s.halt).pc = s.pc := rfl
@[simp] theorem State.halt_flags (s : State) : (s.halt).flags = s.flags := rfl
@[simp] theorem State.halt_runState (s : State) : (s.halt).runState = .halted := rfl
@[simp] theorem State.halt_ram (s : State) : (s.halt).ram = s.ram := rfl
@[simp] theorem State.halt_rom (s : State) : (s.halt).rom = s.rom := rfl
@[simp] theorem State.halt_ramImage (s : State) : (s.halt).ramImage = s.ramImage := rfl
@[simp] theorem State.halt_outPorts (s : State) : (s.halt).outPorts = s.outPorts := rfl
@[simp] theorem State.halt_events (s : State) : (s.halt).events = s.events := rfl
@[simp] theorem State.halt_cfg (s : State) : (s.halt).cfg = s.cfg := rfl
@[simp] theorem State.halt_inputs (s : State) : (s.halt).inputs = s.inputs := rfl
@[simp] theorem State.halt_operator (s : State) : (s.halt).operator = s.operator := rfl
@[simp] theorem State.halt_draws (s : State) : (s.halt).draws = s.draws := rfl
@[simp] theorem State.halt_clocks (s : State) : (s.halt).clocks = s.clocks + clocksPerInstruction := rfl

@[simp] theorem State.stall_regs (s : State) (a : Word) : (s.stall a).regs = s.regs := rfl
@[simp] theorem State.stall_pc (s : State) (a : Word) : (s.stall a).pc = nextPc s.cfg s.pc := rfl
@[simp] theorem State.stall_flags (s : State) (a : Word) : (s.stall a).flags = s.flags := rfl
@[simp] theorem State.stall_runState (s : State) (a : Word) : (s.stall a).runState = s.runState := rfl
@[simp] theorem State.stall_ram (s : State) (a : Word) : (s.stall a).ram = s.ram := rfl
@[simp] theorem State.stall_rom (s : State) (a : Word) : (s.stall a).rom = s.rom := rfl
@[simp] theorem State.stall_ramImage (s : State) (a : Word) : (s.stall a).ramImage = s.ramImage := rfl
@[simp] theorem State.stall_outPorts (s : State) (a : Word) : (s.stall a).outPorts = s.outPorts := rfl
@[simp] theorem State.stall_events (s : State) (a : Word) : (s.stall a).events = s.events := rfl
@[simp] theorem State.stall_cfg (s : State) (a : Word) : (s.stall a).cfg = s.cfg := rfl
@[simp] theorem State.stall_inputs (s : State) (a : Word) : (s.stall a).inputs = s.inputs := rfl
@[simp] theorem State.stall_operator (s : State) (a : Word) : (s.stall a).operator = s.operator := rfl
@[simp] theorem State.stall_draws (s : State) (a : Word) : (s.stall a).draws = s.draws := rfl
@[simp] theorem State.stall_clocks (s : State) (a : Word) : (s.stall a).clocks = s.clocks + Config.stlClocks a s.clocks := rfl

@[simp] theorem State.putRam_regs (s : State) (a : Nat) (v : Word) : (s.putRam a v).regs = s.regs := rfl
@[simp] theorem State.putRam_pc (s : State) (a : Nat) (v : Word) : (s.putRam a v).pc = s.pc := rfl
@[simp] theorem State.putRam_flags (s : State) (a : Nat) (v : Word) : (s.putRam a v).flags = s.flags := rfl
@[simp] theorem State.putRam_runState (s : State) (a : Nat) (v : Word) : (s.putRam a v).runState = s.runState := rfl
@[simp] theorem State.putRam_ram (s : State) (a : Nat) (v : Word) : (s.putRam a v).ram = Memory.write s.ram a v := rfl
@[simp] theorem State.putRam_rom (s : State) (a : Nat) (v : Word) : (s.putRam a v).rom = s.rom := rfl
@[simp] theorem State.putRam_ramImage (s : State) (a : Nat) (v : Word) : (s.putRam a v).ramImage = s.ramImage := rfl
@[simp] theorem State.putRam_outPorts (s : State) (a : Nat) (v : Word) : (s.putRam a v).outPorts = s.outPorts := rfl
@[simp] theorem State.putRam_events (s : State) (a : Nat) (v : Word) : (s.putRam a v).events = s.events := rfl
@[simp] theorem State.putRam_cfg (s : State) (a : Nat) (v : Word) : (s.putRam a v).cfg = s.cfg := rfl
@[simp] theorem State.putRam_inputs (s : State) (a : Nat) (v : Word) : (s.putRam a v).inputs = s.inputs := rfl
@[simp] theorem State.putRam_operator (s : State) (a : Nat) (v : Word) : (s.putRam a v).operator = s.operator := rfl
@[simp] theorem State.putRam_draws (s : State) (a : Nat) (v : Word) : (s.putRam a v).draws = s.draws := rfl
@[simp] theorem State.putRam_clocks (s : State) (a : Nat) (v : Word) : (s.putRam a v).clocks = s.clocks := rfl

@[simp] theorem State.putPort_regs (s : State) (p : PortId) (v : Word) : (s.putPort p v).regs = s.regs := rfl
@[simp] theorem State.putPort_pc (s : State) (p : PortId) (v : Word) : (s.putPort p v).pc = s.pc := rfl
@[simp] theorem State.putPort_flags (s : State) (p : PortId) (v : Word) : (s.putPort p v).flags = s.flags := rfl
@[simp] theorem State.putPort_runState (s : State) (p : PortId) (v : Word) : (s.putPort p v).runState = s.runState := rfl
@[simp] theorem State.putPort_ram (s : State) (p : PortId) (v : Word) : (s.putPort p v).ram = s.ram := rfl
@[simp] theorem State.putPort_rom (s : State) (p : PortId) (v : Word) : (s.putPort p v).rom = s.rom := rfl
@[simp] theorem State.putPort_ramImage (s : State) (p : PortId) (v : Word) : (s.putPort p v).ramImage = s.ramImage := rfl
@[simp] theorem State.putPort_events (s : State) (p : PortId) (v : Word) : (s.putPort p v).events = s.events ++ [.out p v] := rfl
@[simp] theorem State.putPort_cfg (s : State) (p : PortId) (v : Word) : (s.putPort p v).cfg = s.cfg := rfl
@[simp] theorem State.putPort_inputs (s : State) (p : PortId) (v : Word) : (s.putPort p v).inputs = s.inputs := rfl
@[simp] theorem State.putPort_operator (s : State) (p : PortId) (v : Word) : (s.putPort p v).operator = s.operator := rfl
@[simp] theorem State.putPort_draws (s : State) (p : PortId) (v : Word) : (s.putPort p v).draws = s.draws := rfl
@[simp] theorem State.putPort_clocks (s : State) (p : PortId) (v : Word) : (s.putPort p v).clocks = s.clocks := rfl

@[simp] theorem State.gfxSend_regs (s : State) (x y c : Word) : (s.gfxSend x y c).regs = s.regs := rfl
@[simp] theorem State.gfxSend_pc (s : State) (x y c : Word) : (s.gfxSend x y c).pc = s.pc := rfl
@[simp] theorem State.gfxSend_flags (s : State) (x y c : Word) : (s.gfxSend x y c).flags = s.flags := rfl
@[simp] theorem State.gfxSend_runState (s : State) (x y c : Word) : (s.gfxSend x y c).runState = s.runState := rfl
@[simp] theorem State.gfxSend_ram (s : State) (x y c : Word) : (s.gfxSend x y c).ram = s.ram := rfl
@[simp] theorem State.gfxSend_rom (s : State) (x y c : Word) : (s.gfxSend x y c).rom = s.rom := rfl
@[simp] theorem State.gfxSend_ramImage (s : State) (x y c : Word) : (s.gfxSend x y c).ramImage = s.ramImage := rfl
@[simp] theorem State.gfxSend_outPorts (s : State) (x y c : Word) : (s.gfxSend x y c).outPorts = s.outPorts := rfl
@[simp] theorem State.gfxSend_events (s : State) (x y c : Word) : (s.gfxSend x y c).events = s.events ++ [.gfx x y c] := rfl
@[simp] theorem State.gfxSend_cfg (s : State) (x y c : Word) : (s.gfxSend x y c).cfg = s.cfg := rfl
@[simp] theorem State.gfxSend_inputs (s : State) (x y c : Word) : (s.gfxSend x y c).inputs = s.inputs := rfl
@[simp] theorem State.gfxSend_operator (s : State) (x y c : Word) : (s.gfxSend x y c).operator = s.operator := rfl
@[simp] theorem State.gfxSend_draws (s : State) (x y c : Word) : (s.gfxSend x y c).draws = s.draws := rfl
@[simp] theorem State.gfxSend_clocks (s : State) (x y c : Word) : (s.gfxSend x y c).clocks = s.clocks := rfl

@[simp] theorem State.setReg_flag (s : State) (r : RegId) (v : Word) (n : Flag) : (s.setReg r v).flag n = s.flag n := by
  unfold State.flag; rw [State.setReg_flags]
@[simp] theorem State.setReg_ramWord (s : State) (r : RegId) (v : Word) (k : Nat) : (s.setReg r v).ramWord k = s.ramWord k := by
  unfold State.ramWord; rw [State.setReg_ram]
@[simp] theorem State.setReg_outPort (s : State) (r : RegId) (v : Word) (q : PortId) : (s.setReg r v).outPort q = s.outPort q := by
  simp only [State.outPort, State.setReg_outPorts]
@[simp] theorem State.advance_reg (s : State) (q : RegId) : (s.advance).reg q = s.reg q := rfl
@[simp] theorem State.advance_flag (s : State) (n : Flag) : (s.advance).flag n = s.flag n := rfl
@[simp] theorem State.advance_ramWord (s : State) (k : Nat) : (s.advance).ramWord k = s.ramWord k := rfl
@[simp] theorem State.advance_outPort (s : State) (q : PortId) : (s.advance).outPort q = s.outPort q := rfl
@[simp] theorem State.jump_reg (s : State) (t : Word) (q : RegId) : (s.jump t).reg q = s.reg q := rfl
@[simp] theorem State.jump_flag (s : State) (t : Word) (n : Flag) : (s.jump t).flag n = s.flag n := rfl
@[simp] theorem State.jump_ramWord (s : State) (t : Word) (k : Nat) : (s.jump t).ramWord k = s.ramWord k := rfl
@[simp] theorem State.jump_outPort (s : State) (t : Word) (q : PortId) : (s.jump t).outPort q = s.outPort q := rfl
@[simp] theorem State.halt_reg (s : State) (q : RegId) : (s.halt).reg q = s.reg q := rfl
@[simp] theorem State.halt_flag (s : State) (n : Flag) : (s.halt).flag n = s.flag n := rfl
@[simp] theorem State.halt_ramWord (s : State) (k : Nat) : (s.halt).ramWord k = s.ramWord k := rfl
@[simp] theorem State.halt_outPort (s : State) (q : PortId) : (s.halt).outPort q = s.outPort q := rfl
@[simp] theorem State.stall_reg (s : State) (a : Word) (q : RegId) : (s.stall a).reg q = s.reg q := rfl
@[simp] theorem State.stall_flag (s : State) (a : Word) (n : Flag) : (s.stall a).flag n = s.flag n := rfl
@[simp] theorem State.stall_ramWord (s : State) (a : Word) (k : Nat) : (s.stall a).ramWord k = s.ramWord k := rfl
@[simp] theorem State.stall_outPort (s : State) (a : Word) (q : PortId) : (s.stall a).outPort q = s.outPort q := rfl
@[simp] theorem State.putRam_reg (s : State) (a : Nat) (v : Word) (q : RegId) : (s.putRam a v).reg q = s.reg q := rfl
@[simp] theorem State.putRam_flag (s : State) (a : Nat) (v : Word) (n : Flag) : (s.putRam a v).flag n = s.flag n := rfl
@[simp] theorem State.putRam_outPort (s : State) (a : Nat) (v : Word) (q : PortId) : (s.putRam a v).outPort q = s.outPort q := rfl
@[simp] theorem State.putPort_reg (s : State) (p : PortId) (v : Word) (q : RegId) : (s.putPort p v).reg q = s.reg q := rfl
@[simp] theorem State.putPort_flag (s : State) (p : PortId) (v : Word) (n : Flag) : (s.putPort p v).flag n = s.flag n := rfl
@[simp] theorem State.putPort_ramWord (s : State) (p : PortId) (v : Word) (k : Nat) : (s.putPort p v).ramWord k = s.ramWord k := rfl
@[simp] theorem State.gfxSend_reg (s : State) (x y c : Word) (q : RegId) : (s.gfxSend x y c).reg q = s.reg q := rfl
@[simp] theorem State.gfxSend_flag (s : State) (x y c : Word) (n : Flag) : (s.gfxSend x y c).flag n = s.flag n := rfl
@[simp] theorem State.gfxSend_ramWord (s : State) (x y c : Word) (k : Nat) : (s.gfxSend x y c).ramWord k = s.ramWord k := rfl
@[simp] theorem State.gfxSend_outPort (s : State) (x y c : Word) (q : PortId) : (s.gfxSend x y c).outPort q = s.outPort q := rfl

end Sys2Proof.Machine
end

