-- ==== Sys2Proof/Laws/Ops.lean ====
section
/-! SUPPORT. What each shared operation can do, said once: registers, program counter, RAM, ports. -/

namespace Sys2Proof.Machine

/-- Register 0 reads 0 in every state (R22). -/
@[simp] theorem State.reg_zero (s : State) : s.reg 0#4 = 0#16 := by
  simp [State.reg]

/-- A write to register 0 is discarded (R22). -/
@[simp] theorem State.setReg_zero (s : State) (v : Word) : s.setReg 0#4 v = s := by
  simp [State.setReg]

/-- A written register reads back, but for register 0. -/
theorem State.setReg_reg_same (s : State) (d : RegId) (v : Word) :
    (s.setReg d v).reg d = if d = 0 then 0 else v := by
  unfold State.setReg State.reg
  split <;> simp

/-- A write leaves every other register alone. -/
theorem State.setReg_reg_other (s : State) (d r : RegId) (v : Word) (h : r ≠ d) :
    (s.setReg d v).reg r = s.reg r := by
  unfold State.setReg State.reg
  split
  · rfl
  · rename_i hr
    split
    · rfl
    · rename_i hd
      have h1 : d.toNat ≠ 0 := fun e => hd (BitVec.eq_of_toNat_eq (by simpa using e))
      have h2 : r.toNat ≠ 0 := fun e => hr (BitVec.eq_of_toNat_eq (by simpa using e))
      have h3 : r.toNat ≠ d.toNat := fun e => h (BitVec.eq_of_toNat_eq e)
      have h4 : d.toNat - 1 ≠ r.toNat - 1 := by omega
      have h5 : d.toNat - 1 < 15 := by have := d.isLt; omega
      have h6 : r.toNat - 1 < 15 := by have := r.isLt; omega
      exact Vector.getElem_set_ne h5 h6 h4

/-- `PC_WIDTH` is at most 16 bits. -/
theorem PcWidth_pow_le (w : PcWidth) : 2 ^ w.bits ≤ 65536 ∧ 0 < 2 ^ w.bits := by
  cases w <;> decide

/-- A truncated target as a number. -/
@[simp] theorem truncPc_toNat (cfg : Config) (t : Word) :
    (truncPc cfg t).toNat = t.toNat % 2 ^ cfg.pcWidth.bits := by
  have h := PcWidth_pow_le cfg.pcWidth
  have h2 := Nat.mod_lt t.toNat h.2
  simp only [truncPc, BitVec.toNat_ofNat]
  exact Nat.mod_eq_of_lt (by omega)

/-- The next instruction address as a number. -/
@[simp] theorem nextPc_toNat (cfg : Config) (pc : Word) :
    (nextPc cfg pc).toNat = (pc.toNat + 1) % 2 ^ cfg.pcWidth.bits := by
  have h := PcWidth_pow_le cfg.pcWidth
  have h2 := Nat.mod_lt (pc.toNat + 1) h.2
  simp only [nextPc, BitVec.toNat_ofNat]
  exact Nat.mod_eq_of_lt (by omega)

/-- The RAM word an address names lies in the RAM. -/
theorem ramIndex_lt (cfg : Config) (addr : Word) (a : Nat) (h : ramIndex cfg addr = some a) : a < ramWords := by
  unfold ramIndex at h
  split at h
  · simp only [Option.some.injEq] at h; omega
  · split at h
    · simp at h
    · simp only [Option.some.injEq] at h
      subst h
      exact Nat.mod_lt _ (by decide)

/-- The RAM word an address names where it names one (R52, R53). -/
theorem ramIndex_eq (cfg : Config) (addr : Word) (h : addr.toNat < ramWords ∨ cfg.ramOob = .wrap13) :
    ramIndex cfg addr = some (addr.toNat % ramWords) := by
  unfold ramIndex
  split
  · rw [Nat.mod_eq_of_lt (by assumption)]
  · rcases h with h | h
    · contradiction
    · rw [h]

/-- The port a number names where it names one (R58, R59). -/
theorem portIndex_eq (cfg : Config) (n : Word) (h : n.toNat < 16 ∨ cfg.portOob = .low4) :
    portIndex cfg n = some (BitVec.ofNat 4 (n.toNat % 16)) := by
  unfold portIndex
  split
  · rw [Nat.mod_eq_of_lt (by assumption)]
  · rcases h with h | h
    · contradiction
    · rw [h]

/-- What a RAM read can do: it gives the word that is held, or draws one and holds it from then on. -/
theorem State.memRead_cases (s : State) (addr v : Word) (s' : State) (h : s.memRead addr = .ok (v, s')) :
    ∃ a, ramIndex s.cfg addr = some a ∧
      ((s.ramWord a = some v ∧ s' = s) ∨
       (s.ramWord a = none ∧ s.cfg.unwritten = .draw ∧ v = Config.freeRam s.draws ∧
        s' = { s.putRam a v with draws := s.draws + 1 })) := by
  unfold State.memRead at h
  split at h
  · simp at h
  · rename_i a ha
    refine ⟨a, ha, ?_⟩
    unfold State.ramRead at h
    split at h
    · rename_i w hw
      simp only [Except.ok.injEq, Prod.mk.injEq] at h
      exact .inl ⟨by rw [hw, h.1], h.2.symm⟩
    · rename_i hw
      split at h
      · simp at h
      · rename_i hu
        simp only [Except.ok.injEq, Prod.mk.injEq] at h
        obtain ⟨rfl, rfl⟩ := h
        exact .inr ⟨hw, hu, rfl, rfl⟩

/-- What a RAM write can do. -/
theorem State.memWrite_cases (s : State) (addr v : Word) (s' : State) (h : s.memWrite addr v = .ok s') :
    ∃ a, ramIndex s.cfg addr = some a ∧ s' = s.putRam a v := by
  unfold State.memWrite at h
  split at h
  · simp at h
  · rename_i a ha
    simp only [Except.ok.injEq] at h
    exact ⟨a, ha, h.symm⟩

/-- What a port read can do: it takes the environment's next value, or a free one where nothing more is listed. -/
theorem State.portIn_cases (s : State) (n v : Word) (s' : State) (h : s.portIn n = .ok (v, s')) :
    ∃ p, portIndex s.cfg n = some p ∧
      ((∃ rest, s.inputs = v :: rest ∧ s' = { s with inputs := rest }) ∨
       (s.inputs = [] ∧ v = Config.freeInput s.draws p ∧ s' = { s with draws := s.draws + 1 })) := by
  unfold State.portIn at h
  split at h
  · simp at h
  · rename_i p hp
    refine ⟨p, hp, ?_⟩
    unfold State.takeInput at h
    split at h
    · rename_i w rest hw
      simp only [Except.ok.injEq, Prod.mk.injEq] at h
      obtain ⟨rfl, rfl⟩ := h
      exact .inl ⟨rest, hw, rfl⟩
    · rename_i hw
      simp only [Except.ok.injEq, Prod.mk.injEq] at h
      obtain ⟨rfl, rfl⟩ := h
      exact .inr ⟨hw, rfl, rfl⟩

/-- What a port write can do. -/
theorem State.portOut_cases (s : State) (n v : Word) (s' : State) (h : s.portOut n v = .ok s') :
    ∃ p, portIndex s.cfg n = some p ∧ s' = s.putPort p v := by
  unfold State.portOut at h
  split at h
  · simp at h
  · rename_i p hp
    simp only [Except.ok.injEq] at h
    exact ⟨p, hp, h.symm⟩

/-- A written output port keeps the value. -/
@[simp] theorem State.putPort_outPort_same (s : State) (p : PortId) (v : Word) :
    (s.putPort p v).outPort p = v := by
  simp [State.putPort, State.outPort]

/-- A write leaves every other output port alone. -/
theorem State.putPort_outPort_other (s : State) (p q : PortId) (v : Word) (h : q ≠ p) :
    (s.putPort p v).outPort q = s.outPort q := by
  have h3 : q.toNat ≠ p.toNat := fun e => h (BitVec.eq_of_toNat_eq e)
  simp only [State.putPort, State.outPort]
  exact Vector.getElem_set_ne p.isLt q.isLt (Ne.symm h3)

/-- An operation followed by the rest of an instruction answers a next state exactly when the operation does not fault. -/
theorem andThen_next {α : Type} (r : Except Fault α) (k : α → State) (t : State)
    (h : andThen r k = .next t) : ∃ a, r = .ok a ∧ t = k a := by
  unfold andThen at h
  split at h
  · rename_i a
    exact ⟨a, rfl, by simpa using h.symm⟩
  · simp at h

end Sys2Proof.Machine
end

