-- ==== Sys2Proof/Laws/Flags.lean ====
section
/-! SUPPORT. The ALU: each flag bit by its number, and what an ALU instruction does to each part of the state. -/

namespace Sys2Proof.Machine

section bits
variable (cfg : Config) (op : AluOp) (a b o free : Word)

@[simp] theorem aluFlags_gt : flagOf (aluFlags cfg op a b o free) .gt =
    comparisonFlag cfg op (decide (b.toNat < a.toNat)) (flagOf free .gt) :=
  BitVec.getLsbD_ofBoolListLE ..
@[simp] theorem aluFlags_lt : flagOf (aluFlags cfg op a b o free) .lt =
    comparisonFlag cfg op (decide (a.toNat < b.toNat)) (flagOf free .lt) :=
  BitVec.getLsbD_ofBoolListLE ..
@[simp] theorem aluFlags_sgt : flagOf (aluFlags cfg op a b o free) .sgt =
    comparisonFlag cfg op (decide (b.toInt < a.toInt)) (flagOf free .sgt) :=
  BitVec.getLsbD_ofBoolListLE ..
@[simp] theorem aluFlags_slt : flagOf (aluFlags cfg op a b o free) .slt =
    comparisonFlag cfg op (decide (a.toInt < b.toInt)) (flagOf free .slt) :=
  BitVec.getLsbD_ofBoolListLE ..
@[simp] theorem aluFlags_eq : flagOf (aluFlags cfg op a b o free) .eq =
    comparisonFlag cfg op (decide (a = b)) (flagOf free .eq) :=
  BitVec.getLsbD_ofBoolListLE ..
@[simp] theorem aluFlags_z : flagOf (aluFlags cfg op a b o free) .z =
    decide (o = 0) :=
  BitVec.getLsbD_ofBoolListLE ..
@[simp] theorem aluFlags_s : flagOf (aluFlags cfg op a b o free) .s =
    o.msb :=
  BitVec.getLsbD_ofBoolListLE ..
@[simp] theorem aluFlags_pos : flagOf (aluFlags cfg op a b o free) .pos =
    (!o.msb && decide (o ≠ 0)) :=
  BitVec.getLsbD_ofBoolListLE ..
@[simp] theorem aluFlags_p : flagOf (aluFlags cfg op a b o free) .p =
    !o.getLsbD 0 :=
  BitVec.getLsbD_ofBoolListLE ..
@[simp] theorem aluFlags_bp : flagOf (aluFlags cfg op a b o free) .bp =
    decide (popcount o % 2 = 0) :=
  BitVec.getLsbD_ofBoolListLE ..
@[simp] theorem aluFlags_c : flagOf (aluFlags cfg op a b o free) .c =
    carryFlag cfg op a b (flagOf free .c) :=
  BitVec.getLsbD_ofBoolListLE ..
@[simp] theorem aluFlags_of : flagOf (aluFlags cfg op a b o free) .of =
    overflowFlag op a b o (flagOf free .of) :=
  BitVec.getLsbD_ofBoolListLE ..

/-- Bits 12 to 15 of the flags an ALU instruction loads (R26). -/
@[simp] theorem aluFlags_fixed : aluFlags cfg op a b o free &&& 0xF000#16 = 0x8000#16 := by
  apply BitVec.eq_of_getLsbD_eq
  intro i hi
  rw [BitVec.getLsbD_and, show (aluFlags cfg op a b o free).getLsbD i = _ from BitVec.getLsbD_ofBoolListLE ..]
  interval_cases i <;> simp

end bits

section effect
variable (s : State) (op : AluOp) (d : RegId) (a b : Word)

@[simp] theorem State.alu_flags : (s.alu op d a b).flags =
    aluFlags s.cfg op a b (aluResult s.cfg op a b (Config.freeShift s.draws)) (Config.freeFlags s.draws) := by
  simp [State.alu]
/-- The flags after an ALU instruction, one by one. -/
@[simp] theorem State.alu_flag (n : Flag) : (s.alu op d a b).flag n = flagOf
    (aluFlags s.cfg op a b (aluResult s.cfg op a b (Config.freeShift s.draws)) (Config.freeFlags s.draws)) n := by
  simp [State.flag]
@[simp] theorem State.alu_pc : (s.alu op d a b).pc = nextPc s.cfg s.pc := by simp [State.alu]
@[simp] theorem State.alu_clocks : (s.alu op d a b).clocks = s.clocks + clocksPerInstruction := by simp [State.alu]
@[simp] theorem State.alu_runState : (s.alu op d a b).runState = s.runState := by simp [State.alu]
@[simp] theorem State.alu_ram : (s.alu op d a b).ram = s.ram := by simp [State.alu]
@[simp] theorem State.alu_ramWord (k : Nat) : (s.alu op d a b).ramWord k = s.ramWord k := by simp [State.ramWord]
@[simp] theorem State.alu_rom : (s.alu op d a b).rom = s.rom := by simp [State.alu]
@[simp] theorem State.alu_ramImage : (s.alu op d a b).ramImage = s.ramImage := by simp [State.alu]
@[simp] theorem State.alu_outPorts : (s.alu op d a b).outPorts = s.outPorts := by simp [State.alu]
@[simp] theorem State.alu_outPort (p : PortId) : (s.alu op d a b).outPort p = s.outPort p := by simp [State.outPort]
@[simp] theorem State.alu_events : (s.alu op d a b).events = s.events := by simp [State.alu]
@[simp] theorem State.alu_cfg : (s.alu op d a b).cfg = s.cfg := by simp [State.alu]
@[simp] theorem State.alu_inputs : (s.alu op d a b).inputs = s.inputs := by simp [State.alu]
@[simp] theorem State.alu_operator : (s.alu op d a b).operator = s.operator := by simp [State.alu]
@[simp] theorem State.alu_draws : (s.alu op d a b).draws = if op.drawsFlags then s.draws + 1 else s.draws := by
  simp [State.alu]

/-- An ALU instruction writes its result to `x[D]`, unless D is 0. -/
theorem State.alu_reg_same : (s.alu op d a b).reg d =
    if d = 0 then 0 else aluResult s.cfg op a b (Config.freeShift s.draws) := by
  simp [State.alu, State.setReg_reg_same]

/-- An ALU instruction leaves every other register alone. -/
theorem State.alu_reg_other (r : RegId) (h : r ≠ d) : (s.alu op d a b).reg r = s.reg r := by
  simp only [State.alu, State.advance_reg]
  rw [State.setReg_reg_other _ _ _ _ h]
  rfl

end effect

end Sys2Proof.Machine
end

