-- ==== Sys2Proof/Laws/Alu.lean ====
section
/-! SUPPORT. The flags an ALU instruction loads, in the terms of Safety: what each says of the operands and of the result. -/

namespace Sys2Proof.Machine

/-- Counting the bits that are 1 is `popcount`. -/
theorem countP_getLsbD_eq_popcount (o : Word) : (List.range 16).countP (fun k => o.getLsbD k) = popcount o := by
  simp only [List.range, List.range.loop, popcount, popcountBelow, List.countP_cons, List.countP_nil, Bool.toNat]
  simp only [cond_eq_ite]
  omega

/-- A word as a signed number. -/
theorem word_toInt (a : Word) : a.toInt = if a.toNat < 32768 then (a.toNat : Int) else a.toNat - 65536 := by
  rw [BitVec.toInt_eq_toNat_cond]; split <;> split <;> omega

/-- The flags of the result that an ALU instruction loads (R131). -/
theorem resultFlags_of_aluFlags (cfg : Config) (op : AluOp) (a b o free : Word) (t : State)
    (h : t.flags = aluFlags cfg op a b o free) : ResultFlags o t := by
  have k : ∀ n, t.flags.getLsbD (Flag.bit n) = flagOf (aluFlags cfg op a b o free) n := fun n => by rw [h]; rfl
  refine ⟨?_, ?_, ?_, ?_, ?_, ?_, ?_, ?_, ?_⟩
  · refine (k .z).trans ?_
    rw [aluFlags_z, decide_eq_decide, ← BitVec.toNat_inj]; rfl
  · refine (k .s).trans ?_
    rw [aluFlags_s, BitVec.msb_eq_toInt]
  · refine (k .pos).trans ?_
    have z : o = 0 ↔ o.toInt = 0 := BitVec.toInt_inj.symm
    rw [aluFlags_pos, BitVec.msb_eq_toInt, Bool.eq_iff_iff]
    simp only [ne_eq, z, Bool.and_eq_true, Bool.not_eq_true', decide_eq_false_iff_not, decide_eq_true_eq]
    omega
  · refine (k .p).trans ?_
    rw [aluFlags_p, BitVec.getLsbD, Nat.testBit_zero]
    rcases Nat.mod_two_eq_zero_or_one o.toNat with e | e <;> simp [e]
  · refine (k .bp).trans ?_
    rw [aluFlags_bp, countP_getLsbD_eq_popcount]
  all_goals rw [h, show (aluFlags cfg op a b o free).getLsbD _ = _ from BitVec.getLsbD_ofBoolListLE]; rfl

/-- The comparison flags that an ALU instruction loads where they are defined (R131, R37). -/
theorem comparisonFlags_of_aluFlags (cfg : Config) (op : AluOp) (a b o free : Word) (t : State)
    (h : t.flags = aluFlags cfg op a b o free) (hc : comparisonFree cfg op = false) : ComparisonFlags a b t := by
  have k : ∀ n, t.flags.getLsbD (Flag.bit n) = flagOf (aluFlags cfg op a b o free) n := fun n => by rw [h]; rfl
  refine ⟨?_, ?_, ?_, ?_, ?_⟩
  · exact (k .gt).trans (by simp [comparisonFlag, hc])
  · exact (k .lt).trans (by simp [comparisonFlag, hc])
  · exact (k .sgt).trans (by simp [comparisonFlag, hc])
  · exact (k .slt).trans (by simp [comparisonFlag, hc])
  · exact (k .eq).trans (by simp [comparisonFlag, hc, BitVec.toNat_inj])

/-- What every ALU instruction does (R130). -/
theorem State.alu_effect (s : State) (op : AluOp) (d : RegId) (a b : Word) :
    AluEffect d (aluResult s.cfg op a b (Config.freeShift s.draws)) s (s.alu op d a b) := by
  refine ⟨s.alu_reg_same op d a b, resultFlags_of_aluFlags _ _ _ _ _ _ _ (s.alu_flags op d a b),
    fun r hr => s.alu_reg_other op d a b r hr, fun _ => by simp, ⟨fun _ => by simp, by simp⟩,
    ⟨by simp, by simp, by simp, by simp⟩, by simp, ?_⟩
  exact ⟨by simp, by simp [clocksPerInstruction], by simp⟩

/-- C and OF are free after every ALU instruction but ADD and SUB (R37). -/
theorem State.alu_freeCarryAndOverflow (s : State) (op : AluOp) (d : RegId) (a b : Word)
    (h : op ≠ .add ∧ op ≠ .sub) : FreeCarryAndOverflow s (s.alu op d a b) := by
  have k : ∀ n, (s.alu op d a b).flags.getLsbD (Flag.bit n) = flagOf _ n := fun n => by rw [State.alu_flags]; rfl
  refine ⟨?_, ?_, ?_⟩
  · refine (k .c).trans ?_
    rw [aluFlags_c]; cases op <;> simp_all [carryFlag] <;> rfl
  · refine (k .of).trans ?_
    rw [aluFlags_of]; cases op <;> simp_all [overflowFlag] <;> rfl
  · rw [State.alu_draws]; cases op <;> simp_all [AluOp.drawsFlags]

end Sys2Proof.Machine
end

