-- ==== Sys2Proof/Laws/Decode.lean ====
section
/-! SUPPORT. The fields of a packed word, and that the canonical encoding leaves the ignored bits 0. -/

namespace Sys2Proof

section fields
variable (I : BitVec 8) (aa : BitVec 2) (x y : Bool) (d : BitVec 4) (lower : BitVec 16)

/-- Each bit of a packed word, by its number (R81). -/
theorem packFields_getLsbD (i : Nat) : (packFields I aa x y d lower).getLsbD i =
    if i < 16 then lower.getLsbD i
    else if i < 20 then d.getLsbD (i - 16)
    else if i < 21 then y
    else if i < 22 then x
    else if i < 24 then aa.getLsbD (i - 22)
    else I.getLsbD (i - 24) := by
  unfold packFields
  simp only [BitVec.getLsbD_append, BitVec.getLsbD_ofBool]
  by_cases h1 : i < 16
  · simp [h1]
  · by_cases h2 : i < 20
    · simp [h1, h2, show i - 16 < 4 by omega]
    · have n1 : ¬ i - 16 < 4 := by omega
      by_cases h3 : i < 21
      · simp [h1, h2, h3, n1, show i - 16 - 4 = 0 by omega]
      · have n2 : ¬ i - 16 - 4 < 1 := by omega
        by_cases h4 : i < 22
        · simp [h1, h2, h3, h4, n1, n2, show i - 16 - 4 - 1 = 0 by omega]
        · have n3 : ¬ i - 16 - 4 - 1 < 1 := by omega
          have n4 : i - 16 - 4 - 1 - 1 = i - 22 := by omega
          by_cases h5 : i < 24
          · simp [h1, h2, h3, h4, h5, n1, n2, n3, n4, show i - 22 < 2 by omega]
          · simp [h1, h2, h3, h4, h5, n1, n2, n3, n4, show ¬ i - 22 < 2 by omega, show i - 22 - 2 = i - 24 by omega]

@[simp] theorem fieldI_packFields : fieldI (packFields I aa x y d lower) = I := by
  apply BitVec.eq_of_getLsbD_eq
  intro i hi
  rw [fieldI, BitVec.getLsbD_extractLsb', packFields_getLsbD]
  simp [hi, show ¬ 24 + i < 16 by omega, show ¬ 24 + i < 20 by omega, show ¬ 24 + i < 21 by omega, show ¬ 24 + i < 22 by omega, show ¬ 24 + i < 24 by omega]

@[simp] theorem fieldAA_packFields : fieldAA (packFields I aa x y d lower) = aa := by
  apply BitVec.eq_of_getLsbD_eq
  intro i hi
  rw [fieldAA, BitVec.getLsbD_extractLsb', packFields_getLsbD]
  simp [hi, show ¬ 22 + i < 16 by omega, show ¬ 22 + i < 20 by omega, show ¬ 22 + i < 21 by omega, show ¬ 22 + i < 22 by omega, show 22 + i < 24 by omega]

@[simp] theorem fieldD_packFields : fieldD (packFields I aa x y d lower) = d := by
  apply BitVec.eq_of_getLsbD_eq
  intro i hi
  rw [fieldD, BitVec.getLsbD_extractLsb', packFields_getLsbD]
  simp [hi, show ¬ 16 + i < 16 by omega, show 16 + i < 20 by omega]

@[simp] theorem fieldLower_packFields : fieldLower (packFields I aa x y d lower) = lower := by
  apply BitVec.eq_of_getLsbD_eq
  intro i hi
  rw [fieldLower, BitVec.getLsbD_extractLsb', packFields_getLsbD]
  simp [hi]

@[simp] theorem fieldX_packFields : fieldX (packFields I aa x y d lower) = x := by
  rw [fieldX, packFields_getLsbD]; simp

@[simp] theorem fieldY_packFields : fieldY (packFields I aa x y d lower) = y := by
  rw [fieldY, packFields_getLsbD]; simp

/-- Decoding a packed word is decoding its fields. -/
@[simp] theorem decode_packFields :
    decode (packFields I aa x y d lower) = decodeFields I aa x y d lower := by
  simp [decode]

/-- Clearing the ignored bits of a packed word clears fields (R88). -/
theorem canonicalWord_packFields :
    canonicalWord (packFields I aa x y d lower) =
      if aa = 0 then packFields I aa false false d 0
      else if aa = 1 then packFields I aa x false d lower
      else packFields I aa x y d lower := by
  simp only [canonicalWord, fieldAA_packFields, ignoredBits]
  split
  · apply BitVec.eq_of_getLsbD_eq
    intro i hi
    rw [BitVec.getLsbD_and, packFields_getLsbD, packFields_getLsbD]
    interval_cases i <;> simp
  · split
    · apply BitVec.eq_of_getLsbD_eq
      intro i hi
      rw [BitVec.getLsbD_and, packFields_getLsbD, packFields_getLsbD]
      interval_cases i <;> simp
    · rw [show ~~~(0 : InstrWord) = BitVec.allOnes 32 from rfl, BitVec.and_allOnes]

end fields

/-- A word is its six fields. -/
theorem packFields_fields (w : InstrWord) :
    packFields (fieldI w) (fieldAA w) (fieldX w) (fieldY w) (fieldD w) (fieldLower w) = w := by
  apply BitVec.eq_of_getLsbD_eq
  intro i hi
  rw [packFields_getLsbD]
  simp only [fieldI, fieldAA, fieldX, fieldY, fieldD, fieldLower, BitVec.getLsbD_extractLsb']
  interval_cases i <;> simp

theorem canonicalWord_encodeF0 (I : BitVec 8) : canonicalWord (encodeF0 I) = encodeF0 I := by
  simp [encodeF0, canonicalWord_packFields]

theorem canonicalWord_encodeOne (I : BitVec 8) (d : BitVec 4) (a : Arg) :
    canonicalWord (encodeOne I d a) = encodeOne I d a := by
  cases a <;> simp [encodeOne, canonicalWord_packFields]

theorem canonicalWord_encodeTwo (I : BitVec 8) (d : BitVec 4) (ab : Args) :
    canonicalWord (encodeTwo I d ab) = encodeTwo I d ab := by
  cases ab <;> simp [encodeTwo, canonicalWord_packFields]

theorem canonicalWord_encodeSet (I : BitVec 8) (d : BitVec 4) (ab : SetArgs) :
    canonicalWord (encodeSet I d ab) = encodeSet I d ab := by
  cases ab
  · exact canonicalWord_encodeOne I d _
  · exact canonicalWord_encodeTwo I d _

/-- The upper part of two joined bit vectors. -/
theorem append_high {n m : Nat} (a : BitVec n) (b : BitVec m) : (a ++ b).extractLsb' m n = a := by
  apply BitVec.eq_of_getLsbD_eq
  intro i hi
  simp [BitVec.getLsbD_append, hi]

/-- The lower part of two joined bit vectors. -/
theorem append_low {n m : Nat} (a : BitVec n) (b : BitVec m) : (a ++ b).extractLsb' 0 m = b := by
  apply BitVec.eq_of_getLsbD_eq
  intro i hi
  simp [BitVec.getLsbD_append, hi]

/-! The operand forms: each lower half the encoder writes is read back. -/

theorem decodeArg_imm (a : Word) : decodeArg false a = some (.imm a) := rfl

theorem decodeArg_reg (a : RegId) : decodeArg true (0#12 ++ a) = some (.reg a) := by
  revert a; decide

theorem decodeArgs_immImm (a b : BitVec 8) : decodeArgs false false (a ++ b) = some (.immImm a b) := by
  simp only [decodeArgs, append_high a b, append_low a b]

theorem decodeArgs_regImm (a : RegId) (b : BitVec 12) : decodeArgs true false (a ++ b) = some (.regImm a b) := by
  simp only [decodeArgs, append_high a b, append_low a b]

theorem decodeArgs_immReg (a : BitVec 12) (b : RegId) : decodeArgs false true (a ++ b) = some (.immReg a b) := by
  simp only [decodeArgs, append_high a b, append_low a b]

theorem decodeArgs_regReg (a b : RegId) : decodeArgs true true (0#4 ++ a ++ 0#4 ++ b) = some (.regReg a b) := by
  revert a b; decide

/-- A word encoded without arguments decodes by its identifier. -/
theorem decode_encodeF0 (I : BitVec 8) : decode (encodeF0 I) = decodeFields I 0 false false 0 0 := decode_packFields ..

/-- A word encoded with one argument decodes by its identifier and gives the argument back. -/
theorem decode_encodeOne (I : BitVec 8) (d : RegId) (a : Arg) : ∃ x lower,
    decode (encodeOne I d a) = decodeFields I 1 x false d lower ∧ decodeArg x lower = some a := by
  cases a with
  | imm a => exact ⟨_, _, decode_packFields .., decodeArg_imm a⟩
  | reg a => exact ⟨_, _, decode_packFields .., decodeArg_reg a⟩

/-- A word encoded with two arguments decodes by its identifier and gives the arguments back. -/
theorem decode_encodeTwo (I : BitVec 8) (d : RegId) (ab : Args) : ∃ x y lower,
    decode (encodeTwo I d ab) = decodeFields I 2 x y d lower ∧ decodeArgs x y lower = some ab := by
  cases ab with
  | immImm a b => exact ⟨_, _, _, decode_packFields .., decodeArgs_immImm a b⟩
  | regImm a b => exact ⟨_, _, _, decode_packFields .., decodeArgs_regImm a b⟩
  | immReg a b => exact ⟨_, _, _, decode_packFields .., decodeArgs_immReg a b⟩
  | regReg a b => exact ⟨_, _, _, decode_packFields .., decodeArgs_regReg a b⟩

/-- A word encoded for a set instruction decodes by its identifier and gives the arguments back. -/
theorem decode_encodeSet (I : BitVec 8) (d : RegId) (ab : SetArgs) : ∃ aa x y lower,
    decode (encodeSet I d ab) = decodeFields I aa x y d lower ∧ (aa = 1 ∨ aa = 2) ∧
      decodeSetArgs aa x y lower = some ab := by
  cases ab with
  | one a =>
    obtain ⟨x, l, h, h2⟩ := decode_encodeOne I d a
    exact ⟨_, _, _, _, h, .inl rfl, by simp [decodeSetArgs, h2]⟩
  | two ab =>
    obtain ⟨x, y, l, h, h2⟩ := decode_encodeTwo I d ab
    exact ⟨_, _, _, _, h, .inr rfl, by simp [decodeSetArgs, h2]⟩

/-- A lower half read as one argument is what the encoder writes for it, but for the ignored bit Y. -/
theorem encodeOne_of_decodeArg {x : Bool} {l : BitVec 16} {a : Arg} (h : decodeArg x l = some a) (I : BitVec 8)
    (d : RegId) : encodeOne I d a = packFields I 1 x false d l := by
  unfold decodeArg at h
  split at h
  · rename_i hx
    split at h
    · rename_i hp
      simp only [Option.some.injEq] at h
      subst h
      have : 0#12 ++ l.extractLsb' 0 4 = l := by
        apply BitVec.eq_of_getLsbD_eq
        intro i hi
        have hp' := congrArg (fun v => v.getLsbD (i - 4)) hp
        rw [BitVec.getLsbD_append, BitVec.getLsbD_extractLsb']
        simp only [BitVec.getLsbD_extractLsb'] at hp'
        by_cases h4 : i < 4
        · simp [h4]
        · rw [show 4 + (i - 4) = i by omega] at hp'
          simp [show i - 4 < 12 by omega] at hp'
          simp [h4, hp']
      simp [encodeOne, this, hx]
    · simp at h
  · rename_i hx
    simp only [Option.some.injEq] at h
    subst h
    simp at hx
    simp [encodeOne, hx]

/-- A lower half read as two arguments is what the encoder writes for them. -/
theorem encodeTwo_of_decodeArgs {x y : Bool} {l : BitVec 16} {ab : Args} (h : decodeArgs x y l = some ab) (I : BitVec 8)
    (d : RegId) : encodeTwo I d ab = packFields I 2 x y d l := by
  unfold decodeArgs at h
  have key : ∀ (n m : Nat), n + m = 16 → ∀ i < 16,
      (if i < m then (l.extractLsb' 0 m).getLsbD i else (l.extractLsb' m n).getLsbD (i - m)) = l.getLsbD i := by
    intro n m e i hi
    split
    · simp [*]
    · rw [BitVec.getLsbD_extractLsb', show m + (i - m) = i by omega]
      simp; omega
  split at h
  all_goals try split at h
  all_goals simp only [Option.some.injEq, reduceCtorEq] at h
  all_goals subst h
  all_goals simp only [encodeTwo]
  all_goals congr 1
  all_goals apply BitVec.eq_of_getLsbD_eq; intro i hi
  · rw [BitVec.getLsbD_append]; exact key 8 8 rfl i hi
  · rw [BitVec.getLsbD_append]; exact key 4 12 rfl i hi
  · rw [BitVec.getLsbD_append]; exact key 12 4 rfl i hi
  · rename_i hp
    have k1 : ∀ j < 4, l.getLsbD (12 + j) = false := fun j hj => by
      have := congrArg (fun v => v.getLsbD j) hp.1
      simpa [hj] using this
    have k2 : ∀ j < 4, l.getLsbD (4 + j) = false := fun j hj => by
      have := congrArg (fun v => v.getLsbD j) hp.2
      simpa [hj] using this
    simp only [BitVec.getLsbD_append, BitVec.getLsbD_extractLsb']
    have a0 := k1 0; have a1 := k1 1; have a2 := k1 2; have a3 := k1 3
    have b0 := k2 0; have b1 := k2 1; have b2 := k2 2; have b3 := k2 3
    simp at a0 a1 a2 a3 b0 b1 b2 b3
    interval_cases i <;> simp [*]

/-- Step 6 of R94 answers an instruction only where a form fits. -/
theorem orPadding_eq {o : Option Instr} {i : Instr} (h : orPadding o = .instr i) : o = some i := by
  cases o <;> simp_all [orPadding]

/-- The identifier of a word as a number. -/
theorem toNat_shiftRight_24 (w : InstrWord) : (w >>> 24).toNat = (fieldI w).toNat := by
  simp [fieldI, BitVec.extractLsb'_toNat, BitVec.toNat_ushiftRight, Nat.shiftRight_eq_div_pow]
  have := w.isLt
  omega

/-- The identifier of a packed word as a number. -/
theorem packFields_shiftRight_24 (I : BitVec 8) (aa : BitVec 2) (x y : Bool) (d : BitVec 4) (lower : BitVec 16) :
    (packFields I aa x y d lower >>> 24).toNat = I.toNat := by
  rw [toNat_shiftRight_24, fieldI_packFields]

/-- The upper half of the identifier of a packed word as a number. -/
theorem packFields_shiftRight_28 (I : BitVec 8) (aa : BitVec 2) (x y : Bool) (d : BitVec 4) (lower : BitVec 16) :
    (packFields I aa x y d lower >>> 28).toNat = I.toNat / 16 := by
  have := packFields_shiftRight_24 I aa x y d lower
  simp only [BitVec.toNat_ushiftRight, Nat.shiftRight_eq_div_pow] at *
  omega

/-- The field D of a packed word as a number. -/
theorem packFields_shiftRight_16 (I : BitVec 8) (aa : BitVec 2) (x y : Bool) (d : BitVec 4) (lower : BitVec 16) :
    (packFields I aa x y d lower >>> 16).toNat % 16 = d.toNat := by
  have h := congrArg BitVec.toNat (fieldD_packFields I aa x y d lower)
  simp only [fieldD, BitVec.extractLsb'_toNat, BitVec.toNat_ushiftRight] at *
  omega

/-- A word encoded with one argument is a packed word. -/
theorem encodeOne_packed (I : BitVec 8) (d : RegId) (a : Arg) :
    ∃ aa x y lower, encodeOne I d a = packFields I aa x y d lower := by cases a <;> exact ⟨_, _, _, _, rfl⟩

/-- A word encoded with two arguments is a packed word. -/
theorem encodeTwo_packed (I : BitVec 8) (d : RegId) (ab : Args) :
    ∃ aa x y lower, encodeTwo I d ab = packFields I aa x y d lower := by cases ab <;> exact ⟨_, _, _, _, rfl⟩

/-- A word encoded for a set instruction is a packed word. -/
theorem encodeSet_packed (I : BitVec 8) (d : RegId) (ab : SetArgs) :
    ∃ aa x y lower, encodeSet I d ab = packFields I aa x y d lower := by
  cases ab
  · exact encodeOne_packed I d _
  · exact encodeTwo_packed I d _

end Sys2Proof
end

