-- ==== Sys2Proof/Laws/Events.lean ====
section
/-! SUPPORT. What one more event does to what the event history says of the output ports and of the display. -/

namespace Sys2Proof.Machine

/-- The last value sent to a port after one more event. -/
theorem lastOut_append (history : List Event) (e : Event) (p : PortId) :
    lastOut (history ++ [e]) p = match lastOut [e] p with
      | some v => some v
      | none => lastOut history p := by
  induction history with
  | nil => cases h : lastOut [e] p <;> simp [h, lastOut]
  | cons f rest ih =>
    cases f with
    | gfx a b c => simp only [List.cons_append, lastOut, ih]
    | out a b =>
      simp only [List.cons_append]
      rw [lastOut, ih]
      cases h : lastOut [e] p with
      | some v => rfl
      | none => simp only [lastOut]

/-- What is known of a pixel after one more event (R273). -/
@[simp] theorem pixelValue_append (screen : Screen) (history : List Event) (e : Event) (x y : Word) :
    pixelValue screen (history ++ [e]) x y = pixelAfter screen x y (pixelValue screen history x y) e := by
  simp only [pixelValue, List.foldl_append, List.foldl_cons, List.foldl_nil]

@[simp] theorem pixelAfter_out (screen : Screen) (x y : Word) (before : Option Word) (p : PortId) (v : Word) :
    pixelAfter screen x y before (.out p v) = before := rfl

/-- A request for a pixel of the screen gives it its colour. -/
theorem pixelAfter_set {screen : Screen} {x y : Word} (h : onScreen screen x y) (before : Option Word) (c : Word) :
    pixelAfter screen x y before (.gfx x y c) = some c := by
  rw [pixelAfter, if_pos h, if_pos ⟨rfl, rfl⟩]

/-- A request for another pixel of the screen leaves a pixel as it is. -/
theorem pixelAfter_other {screen : Screen} {x y x' y' : Word} (h : onScreen screen x' y') (hne : ¬ (x' = x ∧ y' = y))
    (before : Option Word) (c : Word) : pixelAfter screen x y before (.gfx x' y' c) = before := by
  rw [pixelAfter, if_pos h, if_neg hne]

/-- After a request off the screen nothing is known of any pixel. -/
theorem pixelAfter_offScreen {screen : Screen} {x' y' : Word} (h : ¬ onScreen screen x' y') (x y : Word)
    (before : Option Word) (c : Word) : pixelAfter screen x y before (.gfx x' y' c) = none := by
  rw [pixelAfter, if_neg h]

/-- Off the screen an event makes nothing known. -/
theorem pixelAfter_none_of_offScreen {screen : Screen} {x y : Word} (h : ¬ onScreen screen x y) (e : Event) :
    pixelAfter screen x y none e = none := by
  cases e with
  | out p v => rfl
  | gfx x' y' c =>
    by_cases h' : onScreen screen x' y'
    · exact pixelAfter_other h' (by rintro ⟨rfl, rfl⟩; exact h h') none c
    · exact pixelAfter_offScreen h' x y none c

/-- A coordinate off the screen has no colour, whatever the events (R273). -/
theorem pixelValue_offScreen {screen : Screen} {x y : Word} (h : ¬ onScreen screen x y) (events : List Event) :
    pixelValue screen events x y = none := by
  unfold pixelValue
  induction events with
  | nil => rfl
  | cons e rest ih => rw [List.foldl_cons, pixelAfter_none_of_offScreen h, ih]

end Sys2Proof.Machine
end

