-- ==== Sys2Proof/Laws/Step.lean ====
section
/-! SUPPORT. What the shared operations of the branches and the selects, the fetch, one step and the placing of an instruction can do. -/

namespace Sys2Proof.Machine

/-- What a branch on a flag can do (R170). -/
theorem State.branchOn_cases (s : State) (n : Flag) (want : Bool) (a : Arg) :
    (s.flag n = want ∧ s.branchOn n want a = s.jump (s.valArg a)) ∨
    (s.flag n ≠ want ∧ s.branchOn n want a = s.advance) := by
  unfold State.branchOn
  by_cases h : s.flag n = want
  · exact .inl ⟨h, if_pos h⟩
  · exact .inr ⟨h, if_neg h⟩

/-- The value a select on a flag writes (R210). -/
theorem State.selectOn_reg_same (s : State) (n : Flag) (want : Bool) (d : RegId) (ab : SetArgs) :
    (s.selectOn n want d ab).reg d =
      if d = 0 then 0 else if s.flag n = want then s.valSetA ab else s.valSetB ab :=
  State.setReg_reg_same s d _

/-- A select leaves every other register alone. -/
theorem State.selectOn_reg_other (s : State) (n : Flag) (want : Bool) (d r : RegId) (ab : SetArgs) (h : r ≠ d) :
    (s.selectOn n want d ab).reg r = s.reg r :=
  State.setReg_reg_other s d r _ h

/-- What a fetch can give (R56). -/
theorem State.fetch_eq_some (s : State) (w : InstrWord) :
    s.fetch = some w ↔ s.pc.toNat < romEntries ∧ Memory.read s.rom s.pc.toNat = some w := by
  unfold State.fetch
  split <;> simp <;> omega

/-- What a step in which the CPU has its turn can do. -/
theorem State.runCpu_cases (s t : State) (h : s.runCpu = .next t) :
    (s.runState ≠ .running ∧ t = s) ∨
    (s.runState = .running ∧ ∃ w i, s.fetch = some w ∧ decode w = .instr i ∧ exec i s = .next t) := by
  unfold State.runCpu at h
  split at h
  · rename_i hr
    unfold State.runInstruction at h
    split at h
    · cases h
    · rename_i w hw
      split at h
      · cases h
      · rename_i i hi
        exact .inr ⟨hr, w, i, hw, hi, h⟩
  · rename_i hr
    cases h; exact .inl ⟨by simp [hr], rfl⟩
  · rename_i hr
    cases h; exact .inl ⟨by simp [hr], rfl⟩

/-- What an operator action can do (R337). -/
theorem State.operate_cases (s : State) (action : OperatorAction) :
    (action ≠ .reset ∧ s.operate action = s) ∨
    (action = .button2 ∧ s.runState = .notStarted ∧ s.operate action = { s with runState := .running }) ∨
    (action = .reset ∧ s.operate action = s.restart) := by
  cases action
  case button2 =>
    cases h : s.runState
    · exact .inr (.inl ⟨rfl, rfl, by simp [State.operate, h]⟩)
    · exact .inl ⟨by simp, by simp [State.operate, h]⟩
    · exact .inl ⟨by simp, by simp [State.operate, h]⟩
  case reset => exact .inr (.inr ⟨rfl, rfl⟩)
  all_goals exact .inl ⟨by simp, rfl⟩

/-- What one step can do: nothing but use up an action; run one instruction; start the CPU; reset the machine. -/
theorem step_cases (s t : State) (h : step s = .next t) : ∃ l,
    t = { s with operator := l } ∨
    (s.runState = .running ∧ ∃ w i, s.fetch = some w ∧ decode w = .instr i ∧
      exec i { s with operator := l } = .next t) ∨
    (s.runState = .notStarted ∧ t = { s with operator := l, runState := .running }) ∨
    t = ({ s with operator := l } : State).restart := by
  have cpu : ∀ l, ({ s with operator := l } : State).runCpu = .next t →
      t = { s with operator := l } ∨
      (s.runState = .running ∧ ∃ w i, s.fetch = some w ∧ decode w = .instr i ∧
        exec i { s with operator := l } = .next t) := by
    intro l h
    rcases State.runCpu_cases _ t h with ⟨-, h⟩ | ⟨hr, w, i, hf, hd, he⟩
    · exact .inl h
    · exact .inr ⟨hr, w, i, hf, hd, he⟩
  unfold step at h
  split at h
  · rename_i ho
    have e : s = { s with operator := [] } := by
      obtain ⟨regs, pc, fl, rs, ram, rom, ri, op, ev, cfg, inp, oper, dr, ck⟩ := s
      simp only at ho; subst ho; rfl
    rw [e] at h
    rcases cpu [] h with h | h
    · exact ⟨[], .inl h⟩
    · exact ⟨[], .inr (.inl h)⟩
  · rename_i rest _
    rcases cpu rest h with h | h
    · exact ⟨rest, .inl h⟩
    · exact ⟨rest, .inr (.inl h)⟩
  · rename_i action rest _ _
    simp only [Host.Outcome.next.injEq] at h
    subst h
    refine ⟨rest, ?_⟩
    rcases State.operate_cases { s with operator := rest } action with ⟨-, h⟩ | ⟨-, hr, h⟩ | ⟨-, h⟩
    · exact .inl h
    · exact .inr (.inr (.inl ⟨hr, h⟩))
    · exact .inr (.inr (.inr h))

/-- What the reset event leaves (R35, R330). -/
theorem State.restart_eq (s : State) : s.restart =
    { State.resetWith s.cfg s.rom s.ramImage with
      inputs := s.inputs, operator := s.operator, draws := s.draws, clocks := s.clocks } := rfl

/-- A placed instruction is fetched. -/
theorem State.withFetchWord_fetch (s : State) (nbits w : Nat) :
    (s.withFetchWord nbits w).fetch = some (BitVec.ofNat 32 (w % 2 ^ nbits)) := by
  rw [State.fetch_eq_some]
  refine ⟨?_, Memory.read_write_same _ _ _⟩
  show (if romEntries ≤ s.pc.toNat then 0#16 else s.pc).toNat < romEntries
  split
  · decide
  · omega

/-- A placed instruction leaves the ROM in canonical form. -/
theorem State.withFetchWord_wf (s : State) (nbits w : Nat) (h : Memory.wf romEntries s.rom = true) :
    Memory.wf romEntries (s.withFetchWord nbits w).rom = true := by
  refine Memory.wf_write _ _ _ _ h ?_
  split
  · decide
  · omega

end Sys2Proof.Machine
end

