-- ==== Sys2Proof/Laws/Exec.lean ====
section
/-! SUPPORT. What an instruction that answers a next state can have done, once for all instructions. -/

namespace Sys2Proof.Machine

/-- The ways an instruction `i` leads from `s` to `t`, with what its word says of it: the identifier's range and D. -/
inductive ExecEffect (i : Instr) (s t : State) : Prop where
  | nop (h : t = s.advance) (hi : i = .nop)
  | stl (a : Arg) (h : t = s.stall (s.valArg a)) (hi : i = .stl a)
  | hlt (h : t = s.halt) (hi : i = .hlt)
  | alu (op : AluOp) (d : RegId) (a b : Word) (h : t = s.alu op d a b)
      (h28 : (encode i >>> 28).toNat = 1) (hd : (encode i >>> 16).toNat % 16 = d.toNat)
      (h24 : 0x10 ≤ (encode i >>> 24).toNat ∧ (encode i >>> 24).toNat < 0x20)
  | branch (a : Arg) (hi : (∃ n want, exec i s = .next (s.branchOn n want a)) ∨ i = .brn a)
      (h : t = s.jump (s.valArg a) ∨ t = s.advance)
      (h24 : 0x20 ≤ (encode i >>> 24).toNat ∧ (encode i >>> 24).toNat < 0x40)
  | set (d : RegId) (v : Word) (h : t = (s.setReg d v).advance) (hd : (encode i >>> 16).toNat % 16 = d.toNat)
      (h24 : 0x40 ≤ (encode i >>> 24).toNat ∧ (encode i >>> 24).toNat < 0x60)
  | lod (d : RegId) (a : Arg) (v : Word) (s' : State) (h : s.memRead (s.valArg a) = .ok (v, s'))
      (ht : t = (s'.setReg d v).advance) (hi : i = .lod d a)
  | str (d : RegId) (a : Arg) (s' : State) (h : s.memWrite (s.valArg a) (s.reg d) = .ok s')
      (ht : t = s'.advance) (hi : i = .str d a)
  | inPort (d : RegId) (a : Arg) (v : Word) (s' : State) (h : s.portIn (s.valArg a) = .ok (v, s'))
      (ht : t = (s'.setReg d v).advance) (hi : i = .inPort d a)
  | outPort (d : RegId) (a : Arg) (s' : State) (h : s.portOut (s.valArg a) (s.reg d) = .ok s')
      (ht : t = s'.advance) (hi : i = .outPort d a)
  | gfxsp (d : RegId) (ab : Args) (h : t = (s.gfxSend (s.valA ab) (s.valB ab) (s.reg d)).advance)
      (hi : i = .gfxsp d ab)

theorem execEffect_alu (i : Instr) (s t : State) (op : AluOp) (d : RegId) (a b : Word) (I : BitVec 8)
    (h : Host.Outcome.next (s.alu op d a b) = (.next t : Result))
    (hp : ∃ aa x y l, encode i = packFields I aa x y d l) (hI : 16 ≤ I.toNat ∧ I.toNat < 32) : ExecEffect i s t := by
  simp only [Host.Outcome.next.injEq] at h
  obtain ⟨aa, x, y, l, hp⟩ := hp
  refine .alu op d a b h.symm ?_ ?_ ?_
  · rw [hp, packFields_shiftRight_28]; omega
  · rw [hp, packFields_shiftRight_16]
  · rw [hp, packFields_shiftRight_24]; exact hI

theorem execEffect_set (i : Instr) (s t : State) (d : RegId) (v : Word) (I : BitVec 8)
    (h : Host.Outcome.next (s.setReg d v).advance = (.next t : Result))
    (hp : ∃ aa x y l, encode i = packFields I aa x y d l) (hI : 0x40 ≤ I.toNat ∧ I.toNat < 0x60) :
    ExecEffect i s t := by
  simp only [Host.Outcome.next.injEq] at h
  obtain ⟨aa, x, y, l, hp⟩ := hp
  refine .set d v h.symm ?_ ?_
  · rw [hp, packFields_shiftRight_16]
  · rw [hp, packFields_shiftRight_24]; exact hI

theorem execEffect_branch (i : Instr) (s t : State) (n : Flag) (want : Bool) (a : Arg) (I : BitVec 8)
    (h : exec i s = .next t) (he : exec i s = .next (s.branchOn n want a))
    (hp : ∃ aa x y l, encode i = packFields I aa x y 0 l) (hI : 0x20 ≤ I.toNat ∧ I.toNat < 0x40) :
    ExecEffect i s t := by
  obtain ⟨aa, x, y, l, hp⟩ := hp
  refine .branch a (.inl ⟨n, want, he⟩) ?_ (by rw [hp, packFields_shiftRight_24]; exact hI)
  rw [h] at he
  simp only [Host.Outcome.next.injEq] at he
  subst he
  rcases State.branchOn_cases s n want a with ⟨-, h⟩ | ⟨-, h⟩
  · exact .inl h
  · exact .inr h

/-- What an instruction that answers a next state has done. -/
theorem exec_cases (i : Instr) (s t : State) (h : exec i s = .next t) : ExecEffect i s t := by
  cases i
  case nop => cases h; exact .nop rfl rfl
  case stl a => cases h; exact .stl _ rfl rfl
  case hlt => cases h; exact .hlt rfl rfl
  case brn a =>
    cases h
    obtain ⟨aa, x, y, l, hp⟩ := encodeOne_packed 0x2F#8 0 a
    exact .branch a (.inr rfl) (.inl rfl)
      (by rw [show encode (.brn a) = _ from hp, packFields_shiftRight_24]; decide)
  case lod d a =>
    obtain ⟨⟨v, s'⟩, h1, rfl⟩ := andThen_next _ _ _ h
    exact .lod d a v s' h1 rfl rfl
  case str d a =>
    obtain ⟨s', h1, rfl⟩ := andThen_next _ _ _ h
    exact .str d a s' h1 rfl rfl
  case inPort d a =>
    obtain ⟨⟨v, s'⟩, h1, rfl⟩ := andThen_next _ _ _ h
    exact .inPort d a v s' h1 rfl rfl
  case outPort d a =>
    obtain ⟨s', h1, rfl⟩ := andThen_next _ _ _ h
    exact .outPort d a s' h1 rfl rfl
  case gfxsp d a => cases h; exact .gfxsp d a rfl rfl
  case reserved2C | reserved2D | reserved2E | reserved3C | reserved3D | reserved3E | reserved3F | reserved4C |
      reserved4D | reserved4E | reserved5C | reserved5D | reserved5E | reserved5F => cases h
  case add | sub | rshift | lshift | mul | smul | umul | sumul | and | or | xor | nand | nor | xnor =>
    exact execEffect_alu _ _ _ _ _ _ _ _ h (encodeTwo_packed _ _ _) (by decide)
  case pass | not => exact execEffect_alu _ _ _ _ _ _ _ _ h (encodeOne_packed _ _ _) (by decide)
  case mov | ldi => exact execEffect_set _ _ _ _ _ _ h (encodeOne_packed _ _ _) (by decide)
  case sgt | slt | ssgt | sslt | seq | sz | sneg | spos | sev | sbev | sc | sof | sle | sge | ssle | ssge | sneq |
      snz | sposz | snegz | sod | sbod | snc | snof =>
    exact execEffect_set _ _ _ _ _ _ h (encodeSet_packed _ _ _) (by decide)
  all_goals exact execEffect_branch _ _ _ _ _ _ _ h rfl (encodeOne_packed _ _ _) (by decide)

end Sys2Proof.Machine
end

