-- ==== Sys2Proof/Laws/PerInstr.lean ====
section
/-! SUPPORT. The statements made per instruction: one lemma per constructor of Instr. -/

namespace Sys2Proof.Laws.CanonicalEncoding

/-- The canonical encoding of an instruction has every ignored bit 0 (30_encoding.md R88, R96). A Reserved word has no
ignored bits. -/
def Statement (i : Instr) : Prop := i.isReserved = false → canonicalWord (encode i) = encode i

theorem nop : Statement .nop := fun _ => canonicalWord_encodeF0 0x00#8
theorem stl (a : Arg) : Statement (.stl a) := fun _ => canonicalWord_encodeOne 0x04#8 0 a
theorem hlt : Statement .hlt := fun _ => canonicalWord_encodeF0 0x08#8
theorem add (d : RegId) (ab : Args) : Statement (.add d ab) := fun _ => canonicalWord_encodeTwo 0x10#8 d ab
theorem sub (d : RegId) (ab : Args) : Statement (.sub d ab) := fun _ => canonicalWord_encodeTwo 0x11#8 d ab
theorem rshift (d : RegId) (ab : Args) : Statement (.rshift d ab) := fun _ => canonicalWord_encodeTwo 0x12#8 d ab
theorem lshift (d : RegId) (ab : Args) : Statement (.lshift d ab) := fun _ => canonicalWord_encodeTwo 0x13#8 d ab
theorem mul (d : RegId) (ab : Args) : Statement (.mul d ab) := fun _ => canonicalWord_encodeTwo 0x14#8 d ab
theorem smul (d : RegId) (ab : Args) : Statement (.smul d ab) := fun _ => canonicalWord_encodeTwo 0x15#8 d ab
theorem umul (d : RegId) (ab : Args) : Statement (.umul d ab) := fun _ => canonicalWord_encodeTwo 0x16#8 d ab
theorem sumul (d : RegId) (ab : Args) : Statement (.sumul d ab) := fun _ => canonicalWord_encodeTwo 0x17#8 d ab
theorem pass (d : RegId) (a : Arg) : Statement (.pass d a) := fun _ => canonicalWord_encodeOne 0x18#8 d a
theorem not (d : RegId) (a : Arg) : Statement (.not d a) := fun _ => canonicalWord_encodeOne 0x19#8 d a
theorem and (d : RegId) (ab : Args) : Statement (.and d ab) := fun _ => canonicalWord_encodeTwo 0x1A#8 d ab
theorem or (d : RegId) (ab : Args) : Statement (.or d ab) := fun _ => canonicalWord_encodeTwo 0x1B#8 d ab
theorem xor (d : RegId) (ab : Args) : Statement (.xor d ab) := fun _ => canonicalWord_encodeTwo 0x1C#8 d ab
theorem nand (d : RegId) (ab : Args) : Statement (.nand d ab) := fun _ => canonicalWord_encodeTwo 0x1D#8 d ab
theorem nor (d : RegId) (ab : Args) : Statement (.nor d ab) := fun _ => canonicalWord_encodeTwo 0x1E#8 d ab
theorem xnor (d : RegId) (ab : Args) : Statement (.xnor d ab) := fun _ => canonicalWord_encodeTwo 0x1F#8 d ab
theorem bgt (a : Arg) : Statement (.bgt a) := fun _ => canonicalWord_encodeOne 0x20#8 0 a
theorem blt (a : Arg) : Statement (.blt a) := fun _ => canonicalWord_encodeOne 0x21#8 0 a
theorem bsgt (a : Arg) : Statement (.bsgt a) := fun _ => canonicalWord_encodeOne 0x22#8 0 a
theorem bslt (a : Arg) : Statement (.bslt a) := fun _ => canonicalWord_encodeOne 0x23#8 0 a
theorem beq (a : Arg) : Statement (.beq a) := fun _ => canonicalWord_encodeOne 0x24#8 0 a
theorem bz (a : Arg) : Statement (.bz a) := fun _ => canonicalWord_encodeOne 0x25#8 0 a
theorem bneg (a : Arg) : Statement (.bneg a) := fun _ => canonicalWord_encodeOne 0x26#8 0 a
theorem bpos (a : Arg) : Statement (.bpos a) := fun _ => canonicalWord_encodeOne 0x27#8 0 a
theorem bev (a : Arg) : Statement (.bev a) := fun _ => canonicalWord_encodeOne 0x28#8 0 a
theorem bbev (a : Arg) : Statement (.bbev a) := fun _ => canonicalWord_encodeOne 0x29#8 0 a
theorem bc (a : Arg) : Statement (.bc a) := fun _ => canonicalWord_encodeOne 0x2A#8 0 a
theorem bof (a : Arg) : Statement (.bof a) := fun _ => canonicalWord_encodeOne 0x2B#8 0 a
theorem reserved2C (rest : BitVec 24) : Statement (.reserved2C rest) := fun h => absurd h (by simp [Instr.isReserved])
theorem reserved2D (rest : BitVec 24) : Statement (.reserved2D rest) := fun h => absurd h (by simp [Instr.isReserved])
theorem reserved2E (rest : BitVec 24) : Statement (.reserved2E rest) := fun h => absurd h (by simp [Instr.isReserved])
theorem brn (a : Arg) : Statement (.brn a) := fun _ => canonicalWord_encodeOne 0x2F#8 0 a
theorem ble (a : Arg) : Statement (.ble a) := fun _ => canonicalWord_encodeOne 0x30#8 0 a
theorem bge (a : Arg) : Statement (.bge a) := fun _ => canonicalWord_encodeOne 0x31#8 0 a
theorem bsle (a : Arg) : Statement (.bsle a) := fun _ => canonicalWord_encodeOne 0x32#8 0 a
theorem bsge (a : Arg) : Statement (.bsge a) := fun _ => canonicalWord_encodeOne 0x33#8 0 a
theorem bneq (a : Arg) : Statement (.bneq a) := fun _ => canonicalWord_encodeOne 0x34#8 0 a
theorem bnz (a : Arg) : Statement (.bnz a) := fun _ => canonicalWord_encodeOne 0x35#8 0 a
theorem bposz (a : Arg) : Statement (.bposz a) := fun _ => canonicalWord_encodeOne 0x36#8 0 a
theorem bnegz (a : Arg) : Statement (.bnegz a) := fun _ => canonicalWord_encodeOne 0x37#8 0 a
theorem bod (a : Arg) : Statement (.bod a) := fun _ => canonicalWord_encodeOne 0x38#8 0 a
theorem bbod (a : Arg) : Statement (.bbod a) := fun _ => canonicalWord_encodeOne 0x39#8 0 a
theorem bnc (a : Arg) : Statement (.bnc a) := fun _ => canonicalWord_encodeOne 0x3A#8 0 a
theorem bnof (a : Arg) : Statement (.bnof a) := fun _ => canonicalWord_encodeOne 0x3B#8 0 a
theorem reserved3C (rest : BitVec 24) : Statement (.reserved3C rest) := fun h => absurd h (by simp [Instr.isReserved])
theorem reserved3D (rest : BitVec 24) : Statement (.reserved3D rest) := fun h => absurd h (by simp [Instr.isReserved])
theorem reserved3E (rest : BitVec 24) : Statement (.reserved3E rest) := fun h => absurd h (by simp [Instr.isReserved])
theorem reserved3F (rest : BitVec 24) : Statement (.reserved3F rest) := fun h => absurd h (by simp [Instr.isReserved])
theorem sgt (d : RegId) (ab : SetArgs) : Statement (.sgt d ab) := fun _ => canonicalWord_encodeSet 0x40#8 d ab
theorem slt (d : RegId) (ab : SetArgs) : Statement (.slt d ab) := fun _ => canonicalWord_encodeSet 0x41#8 d ab
theorem ssgt (d : RegId) (ab : SetArgs) : Statement (.ssgt d ab) := fun _ => canonicalWord_encodeSet 0x42#8 d ab
theorem sslt (d : RegId) (ab : SetArgs) : Statement (.sslt d ab) := fun _ => canonicalWord_encodeSet 0x43#8 d ab
theorem seq (d : RegId) (ab : SetArgs) : Statement (.seq d ab) := fun _ => canonicalWord_encodeSet 0x44#8 d ab
theorem sz (d : RegId) (ab : SetArgs) : Statement (.sz d ab) := fun _ => canonicalWord_encodeSet 0x45#8 d ab
theorem sneg (d : RegId) (ab : SetArgs) : Statement (.sneg d ab) := fun _ => canonicalWord_encodeSet 0x46#8 d ab
theorem spos (d : RegId) (ab : SetArgs) : Statement (.spos d ab) := fun _ => canonicalWord_encodeSet 0x47#8 d ab
theorem sev (d : RegId) (ab : SetArgs) : Statement (.sev d ab) := fun _ => canonicalWord_encodeSet 0x48#8 d ab
theorem sbev (d : RegId) (ab : SetArgs) : Statement (.sbev d ab) := fun _ => canonicalWord_encodeSet 0x49#8 d ab
theorem sc (d : RegId) (ab : SetArgs) : Statement (.sc d ab) := fun _ => canonicalWord_encodeSet 0x4A#8 d ab
theorem sof (d : RegId) (ab : SetArgs) : Statement (.sof d ab) := fun _ => canonicalWord_encodeSet 0x4B#8 d ab
theorem reserved4C (rest : BitVec 24) : Statement (.reserved4C rest) := fun h => absurd h (by simp [Instr.isReserved])
theorem reserved4D (rest : BitVec 24) : Statement (.reserved4D rest) := fun h => absurd h (by simp [Instr.isReserved])
theorem reserved4E (rest : BitVec 24) : Statement (.reserved4E rest) := fun h => absurd h (by simp [Instr.isReserved])
theorem mov (d : RegId) (a : Arg) : Statement (.mov d a) := fun _ => canonicalWord_encodeOne 0x4F#8 d a
theorem ldi (d : RegId) (a : Arg) : Statement (.ldi d a) := fun _ => canonicalWord_encodeOne 0x4F#8 d a
theorem sle (d : RegId) (ab : SetArgs) : Statement (.sle d ab) := fun _ => canonicalWord_encodeSet 0x50#8 d ab
theorem sge (d : RegId) (ab : SetArgs) : Statement (.sge d ab) := fun _ => canonicalWord_encodeSet 0x51#8 d ab
theorem ssle (d : RegId) (ab : SetArgs) : Statement (.ssle d ab) := fun _ => canonicalWord_encodeSet 0x52#8 d ab
theorem ssge (d : RegId) (ab : SetArgs) : Statement (.ssge d ab) := fun _ => canonicalWord_encodeSet 0x53#8 d ab
theorem sneq (d : RegId) (ab : SetArgs) : Statement (.sneq d ab) := fun _ => canonicalWord_encodeSet 0x54#8 d ab
theorem snz (d : RegId) (ab : SetArgs) : Statement (.snz d ab) := fun _ => canonicalWord_encodeSet 0x55#8 d ab
theorem sposz (d : RegId) (ab : SetArgs) : Statement (.sposz d ab) := fun _ => canonicalWord_encodeSet 0x56#8 d ab
theorem snegz (d : RegId) (ab : SetArgs) : Statement (.snegz d ab) := fun _ => canonicalWord_encodeSet 0x57#8 d ab
theorem sod (d : RegId) (ab : SetArgs) : Statement (.sod d ab) := fun _ => canonicalWord_encodeSet 0x58#8 d ab
theorem sbod (d : RegId) (ab : SetArgs) : Statement (.sbod d ab) := fun _ => canonicalWord_encodeSet 0x59#8 d ab
theorem snc (d : RegId) (ab : SetArgs) : Statement (.snc d ab) := fun _ => canonicalWord_encodeSet 0x5A#8 d ab
theorem snof (d : RegId) (ab : SetArgs) : Statement (.snof d ab) := fun _ => canonicalWord_encodeSet 0x5B#8 d ab
theorem reserved5C (rest : BitVec 24) : Statement (.reserved5C rest) := fun h => absurd h (by simp [Instr.isReserved])
theorem reserved5D (rest : BitVec 24) : Statement (.reserved5D rest) := fun h => absurd h (by simp [Instr.isReserved])
theorem reserved5E (rest : BitVec 24) : Statement (.reserved5E rest) := fun h => absurd h (by simp [Instr.isReserved])
theorem reserved5F (rest : BitVec 24) : Statement (.reserved5F rest) := fun h => absurd h (by simp [Instr.isReserved])
theorem lod (d : RegId) (a : Arg) : Statement (.lod d a) := fun _ => canonicalWord_encodeOne 0xC0#8 d a
theorem str (d : RegId) (a : Arg) : Statement (.str d a) := fun _ => canonicalWord_encodeOne 0xC4#8 d a
theorem inPort (d : RegId) (a : Arg) : Statement (.inPort d a) := fun _ => canonicalWord_encodeOne 0xC8#8 d a
theorem outPort (d : RegId) (a : Arg) : Statement (.outPort d a) := fun _ => canonicalWord_encodeOne 0xCC#8 d a
theorem gfxsp (d : RegId) (ab : Args) : Statement (.gfxsp d ab) := fun _ => canonicalWord_encodeTwo 0xD0#8 d ab

end Sys2Proof.Laws.CanonicalEncoding
end

