-- ==== Sys2Proof/Tests/Slice0.lean ====
section
/-! SUPPORT. Tests of single operations and single steps, with expected values from the spec's vectors (95_test_vectors.md), and a witness for the hypotheses of each statement. -/

namespace Sys2Proof.Tests

open Sys2Proof Sys2Proof.Machine

/-! The states the tests start from. -/

/-- A running CPU in the reset state with one instruction placed at `pc`. -/
def placed (w : Nat) : State := State.reset.withFetchWord 32 w

/-- A running CPU with 0x1111 in R1 and 0x2222 in R2. -/
def two : State := (({ State.reset with runState := .running } : State).setReg 1 0x1111#16).setReg 2 0x2222#16

/-- The state after, if there is one. -/
def after (r : Result) : Option State :=
  match r with
  | .next s => some s
  | .fault _ => none
  | .refused _ => none

/-- The fault, if there is one. -/
def faultOf (r : Result) : Option Fault :=
  match r with
  | .next _ => none
  | .fault f => some f
  | .refused _ => none

/-! Well-formed instructions. -/

/-- A Reserved term is refused by the first check (R91). -/
theorem test_reserved_is_ill_formed : ¬ (Instr.reserved2C 0).WellFormed := by decide
/-- An LDI term is refused by the second check (R224). -/
theorem test_ldi_is_ill_formed : ¬ (Instr.ldi 1 (.imm 5)).WellFormed := by decide
theorem test_mov_is_well_formed : (Instr.mov 1 (.imm 5)).WellFormed := by decide

/-! Decoding: the words are written out from R81, R84 and the identifier table, several of them 95_test_vectors.md part 2's. -/

theorem test_decode_control :
    decode 0x00000000#32 = .instr (.nop) ∧
    decode 0x0460000E#32 = .instr (.stl (.reg 14)) ∧
    decode 0x08000000#32 = .instr (.hlt) := by decide
theorem test_decode_alu :
    decode 0x10A12005#32 = .instr (.add 1 (.regImm 2 0x005)) ∧
    decode 0x11A12005#32 = .instr (.sub 1 (.regImm 2 0x005)) ∧
    decode 0x12A12005#32 = .instr (.rshift 1 (.regImm 2 0x005)) ∧
    decode 0x13A12005#32 = .instr (.lshift 1 (.regImm 2 0x005)) ∧
    decode 0x14A12005#32 = .instr (.mul 1 (.regImm 2 0x005)) ∧
    decode 0x15A12005#32 = .instr (.smul 1 (.regImm 2 0x005)) ∧
    decode 0x16A12005#32 = .instr (.umul 1 (.regImm 2 0x005)) ∧
    decode 0x17A12005#32 = .instr (.sumul 1 (.regImm 2 0x005)) ∧
    decode 0x18430010#32 = .instr (.pass 3 (.imm 0x0010)) ∧
    decode 0x19430010#32 = .instr (.not 3 (.imm 0x0010)) ∧
    decode 0x1AA12005#32 = .instr (.and 1 (.regImm 2 0x005)) ∧
    decode 0x1BA12005#32 = .instr (.or 1 (.regImm 2 0x005)) ∧
    decode 0x1CA12005#32 = .instr (.xor 1 (.regImm 2 0x005)) ∧
    decode 0x1DA12005#32 = .instr (.nand 1 (.regImm 2 0x005)) ∧
    decode 0x1EA12005#32 = .instr (.nor 1 (.regImm 2 0x005)) ∧
    decode 0x1FA12005#32 = .instr (.xnor 1 (.regImm 2 0x005)) := by decide
theorem test_decode_branch_set_flag :
    decode 0x2060000E#32 = .instr (.bgt (.reg 14)) ∧
    decode 0x2160000E#32 = .instr (.blt (.reg 14)) ∧
    decode 0x2260000E#32 = .instr (.bsgt (.reg 14)) ∧
    decode 0x2360000E#32 = .instr (.bslt (.reg 14)) ∧
    decode 0x2460000E#32 = .instr (.beq (.reg 14)) ∧
    decode 0x2560000E#32 = .instr (.bz (.reg 14)) ∧
    decode 0x2660000E#32 = .instr (.bneg (.reg 14)) ∧
    decode 0x2760000E#32 = .instr (.bpos (.reg 14)) ∧
    decode 0x2860000E#32 = .instr (.bev (.reg 14)) ∧
    decode 0x2960000E#32 = .instr (.bbev (.reg 14)) ∧
    decode 0x2A60000E#32 = .instr (.bc (.reg 14)) ∧
    decode 0x2B60000E#32 = .instr (.bof (.reg 14)) ∧
    decode 0x2F60000E#32 = .instr (.brn (.reg 14)) := by decide
theorem test_decode_reserved :
    decode 0x2C400001#32 = .instr (.reserved2C 0x400001) ∧
    decode 0x2D400001#32 = .instr (.reserved2D 0x400001) ∧
    decode 0x2E400001#32 = .instr (.reserved2E 0x400001) ∧
    decode 0x3C400001#32 = .instr (.reserved3C 0x400001) ∧
    decode 0x3D400001#32 = .instr (.reserved3D 0x400001) ∧
    decode 0x3E400001#32 = .instr (.reserved3E 0x400001) ∧
    decode 0x3F400001#32 = .instr (.reserved3F 0x400001) ∧
    decode 0x4C400001#32 = .instr (.reserved4C 0x400001) ∧
    decode 0x4D400001#32 = .instr (.reserved4D 0x400001) ∧
    decode 0x4E400001#32 = .instr (.reserved4E 0x400001) ∧
    decode 0x5C400001#32 = .instr (.reserved5C 0x400001) ∧
    decode 0x5D400001#32 = .instr (.reserved5D 0x400001) ∧
    decode 0x5E400001#32 = .instr (.reserved5E 0x400001) ∧
    decode 0x5F400001#32 = .instr (.reserved5F 0x400001) := by decide
theorem test_decode_branch_clear_flag :
    decode 0x3060000E#32 = .instr (.ble (.reg 14)) ∧
    decode 0x3160000E#32 = .instr (.bge (.reg 14)) ∧
    decode 0x3260000E#32 = .instr (.bsle (.reg 14)) ∧
    decode 0x3360000E#32 = .instr (.bsge (.reg 14)) ∧
    decode 0x3460000E#32 = .instr (.bneq (.reg 14)) ∧
    decode 0x3560000E#32 = .instr (.bnz (.reg 14)) ∧
    decode 0x3660000E#32 = .instr (.bposz (.reg 14)) ∧
    decode 0x3760000E#32 = .instr (.bnegz (.reg 14)) ∧
    decode 0x3860000E#32 = .instr (.bod (.reg 14)) ∧
    decode 0x3960000E#32 = .instr (.bbod (.reg 14)) ∧
    decode 0x3A60000E#32 = .instr (.bnc (.reg 14)) ∧
    decode 0x3B60000E#32 = .instr (.bnof (.reg 14)) := by decide
theorem test_decode_set_set_flag :
    decode 0x40B30102#32 = .instr (.sgt 3 (.two (.regReg 1 2))) ∧
    decode 0x41B30102#32 = .instr (.slt 3 (.two (.regReg 1 2))) ∧
    decode 0x42B30102#32 = .instr (.ssgt 3 (.two (.regReg 1 2))) ∧
    decode 0x43B30102#32 = .instr (.sslt 3 (.two (.regReg 1 2))) ∧
    decode 0x44B30102#32 = .instr (.seq 3 (.two (.regReg 1 2))) ∧
    decode 0x45B30102#32 = .instr (.sz 3 (.two (.regReg 1 2))) ∧
    decode 0x46B30102#32 = .instr (.sneg 3 (.two (.regReg 1 2))) ∧
    decode 0x47B30102#32 = .instr (.spos 3 (.two (.regReg 1 2))) ∧
    decode 0x48B30102#32 = .instr (.sev 3 (.two (.regReg 1 2))) ∧
    decode 0x49B30102#32 = .instr (.sbev 3 (.two (.regReg 1 2))) ∧
    decode 0x4AB30102#32 = .instr (.sc 3 (.two (.regReg 1 2))) ∧
    decode 0x4BB30102#32 = .instr (.sof 3 (.two (.regReg 1 2))) ∧
    decode 0x4F430010#32 = .instr (.mov 3 (.imm 0x0010)) := by decide
theorem test_decode_set_clear_flag :
    decode 0x50B30102#32 = .instr (.sle 3 (.two (.regReg 1 2))) ∧
    decode 0x51B30102#32 = .instr (.sge 3 (.two (.regReg 1 2))) ∧
    decode 0x52B30102#32 = .instr (.ssle 3 (.two (.regReg 1 2))) ∧
    decode 0x53B30102#32 = .instr (.ssge 3 (.two (.regReg 1 2))) ∧
    decode 0x54B30102#32 = .instr (.sneq 3 (.two (.regReg 1 2))) ∧
    decode 0x55B30102#32 = .instr (.snz 3 (.two (.regReg 1 2))) ∧
    decode 0x56B30102#32 = .instr (.sposz 3 (.two (.regReg 1 2))) ∧
    decode 0x57B30102#32 = .instr (.snegz 3 (.two (.regReg 1 2))) ∧
    decode 0x58B30102#32 = .instr (.sod 3 (.two (.regReg 1 2))) ∧
    decode 0x59B30102#32 = .instr (.sbod 3 (.two (.regReg 1 2))) ∧
    decode 0x5AB30102#32 = .instr (.snc 3 (.two (.regReg 1 2))) ∧
    decode 0x5BB30102#32 = .instr (.snof 3 (.two (.regReg 1 2))) := by decide
theorem test_decode_memory_and_ports :
    decode 0xC0430010#32 = .instr (.lod 3 (.imm 0x0010)) ∧
    decode 0xC4430010#32 = .instr (.str 3 (.imm 0x0010)) ∧
    decode 0xC8430010#32 = .instr (.inPort 3 (.imm 0x0010)) ∧
    decode 0xCC430010#32 = .instr (.outPort 3 (.imm 0x0010)) := by decide
theorem test_decode_display :
    decode 0xD0A12005#32 = .instr (.gfxsp 1 (.regImm 2 0x005)) := by decide
/-- LDI $4 0x1234 is 0x4F441234, which decodes to MOV (95_test_vectors.md part 2, R224). -/
theorem test_decode_ldi : encode (.ldi 4 (.imm 0x1234)) = 0x4F441234#32 ∧
    decode 0x4F441234#32 = .instr (.mov 4 (.imm 0x1234)) := by decide
/-- Every operand form (95_test_vectors.md part 2). -/
theorem test_decode_forms :
    decode 0x10B30102#32 = .instr (.add 3 (.regReg 1 2)) ∧ decode 0x1083FF01#32 = .instr (.add 3 (.immImm 0xFF 0x01)) ∧
    decode 0x10930FF2#32 = .instr (.add 3 (.immReg 0x0FF 2)) ∧ decode 0x0440BB80#32 = .instr (.stl (.imm 48000)) ∧
    decode 0x04600003#32 = .instr (.stl (.reg 3)) ∧ decode 0x40430001#32 = .instr (.sgt 3 (.one (.imm 1))) ∧
    decode 0x2F70000E#32 = .instr (.brn (.reg 14)) ∧ decode 0xD0870A14#32 = .instr (.gfxsp 7 (.immImm 10 20)) := by decide
/-- Words that are no instruction (95_test_vectors.md part 2). -/
theorem test_decode_refusals :
    decode 0x00410000#32 = .illegal .argumentCount ∧ decode 0x04600013#32 = .illegal .padding ∧
    decode 0x20410010#32 = .illegal .destination ∧ decode 0xC1430010#32 = .illegal .unlistedIdentifier ∧
    decode 0x10C00000#32 = .illegal .argumentCount ∧ decode 0x18A10102#32 = .illegal .argumentCount ∧
    decode 0x40030000#32 = .illegal .argumentCount ∧ decode 0x4F830102#32 = .illegal .argumentCount ∧
    decode 0x10B31102#32 = .illegal .padding ∧ decode 0x10B30112#32 = .illegal .padding ∧
    decode 0xFF000000#32 = .illegal .unlistedIdentifier := by decide
/-- Encoding, field by field (95_test_vectors.md part 2). -/
theorem test_encode :
    encode (.sub 2 (.immReg 0 1)) = 0x11920001#32 ∧ encode (.xor 3 (.immImm 0xF0 0x0F)) = 0x1C83F00F#32 ∧
    encode (.lshift 5 (.regImm 1 4)) = 0x13A51004#32 ∧ encode (.bnz (.imm 2)) = 0x35400002#32 ∧
    encode (.sc 6 (.one (.imm 1))) = 0x4A460001#32 ∧ encode (.sneg 3 (.two (.regReg 2 1))) = 0x46B30201#32 ∧
    encode (.lod 2 (.reg 1)) = 0xC0620001#32 ∧ encode (.outPort 3 (.imm 0)) = 0xCC430000#32 := by decide
/-- The table's bit numbering: bit 0 is the word's least significant bit. -/
theorem test_decodeTableWord : decodeTableWord 32 0x10A12005 = some (.add 1 (.regImm 2 5)) ∧
    decodeTableWord 32 0x10400001 = none := by decide

/-! The ALU's results and flags, drawn bits 0 (95_test_vectors.md part 3). -/

/-- Whether the ALU gives the result `v.2.2.1` and the flags `v.2.2.2` for the operands `v.1` and `v.2.1`. -/
def aluVector (op : AluOp) (v : Word × Word × Word × Word) : Bool :=
  aluResult Config.specDefault op v.1 v.2.1 0 == v.2.2.1 &&
    aluFlags Config.specDefault op v.1 v.2.1 v.2.2.1 0 == v.2.2.2

theorem test_add : [(0x0000, 0x0000, 0x0000, 0x8330), (0x0001, 0x0001, 0x0002, 0x8190), (0xFFFF, 0x0001, 0x0000, 0x8729), (0x7FFF, 0x0001, 0x8000, 0x8945), (0x8000, 0x8000, 0x0000, 0x8F30), (0x8000, 0x7FFF, 0xFFFF, 0x8249), (0x1234, 0x0FFF, 0x2233, 0x8285), (0xFFFF, 0xFFFF, 0xFFFE, 0x8550)].all (aluVector .add) = true := by decide
theorem test_sub : [(0x0000, 0x0000, 0x0000, 0x8330), (0x0005, 0x0007, 0xFFFE, 0x854A), (0x0007, 0x0005, 0x0002, 0x8185), (0x0003, 0x0003, 0x0000, 0x8330), (0x8000, 0x0001, 0x7FFF, 0x8889), (0x7FFF, 0xFFFF, 0x8000, 0x8D46), (0x0000, 0x0001, 0xFFFF, 0x864A), (0x0000, 0x8000, 0x8000, 0x8D46), (0xFFFF, 0x7FFF, 0x8000, 0x8149)].all (aluVector .sub) = true := by decide
theorem test_rshift : [(0x8000, 0x000F, 0x0001, 0x8089), (0xFFFF, 0x0001, 0x7FFF, 0x8089), (0x1234, 0x0004, 0x0123, 0x8285), (0x1234, 0x0000, 0x1234, 0x8185), (0x0001, 0x0001, 0x0000, 0x8330)].all (aluVector .rshift) = true := by decide
theorem test_lshift : [(0x0001, 0x000F, 0x8000, 0x814A), (0xFFFF, 0x0001, 0xFFFE, 0x8149), (0x1234, 0x0004, 0x2340, 0x8385), (0x8000, 0x0001, 0x0000, 0x8329), (0x1234, 0x0000, 0x1234, 0x8185)].all (aluVector .lshift) = true := by decide
theorem test_mul : [(0xFFFF, 0xFFFF, 0x0001, 0x8090), (0x8000, 0x0002, 0x0000, 0x8329), (0x1234, 0x5678, 0x0060, 0x838A), (0x0000, 0x0005, 0x0000, 0x832A), (0x00FF, 0x0101, 0xFFFF, 0x824A)].all (aluVector .mul) = true := by decide
theorem test_smul : [(0xFFFF, 0xFFFF, 0x0001, 0x8090), (0xFFFE, 0x0003, 0xFFFA, 0x8349), (0x8000, 0x8000, 0x0000, 0x8330), (0x7FFF, 0x7FFF, 0x0001, 0x8090)].all (aluVector .smul) = true := by decide
theorem test_umul : [(0xFFFF, 0xFFFF, 0xFFFE, 0x8150), (0x1234, 0x5678, 0x0626, 0x818A), (0x8000, 0x0002, 0x0001, 0x8089), (0x00FF, 0x00FF, 0x0000, 0x8330)].all (aluVector .umul) = true := by decide
theorem test_sumul : [(0xFFFF, 0xFFFF, 0x0000, 0x8330), (0xFFFE, 0x0003, 0xFFFF, 0x8249), (0x8000, 0x8000, 0x4000, 0x8190), (0x8000, 0x7FFF, 0xC000, 0x8349), (0x7FFF, 0x7FFF, 0x3FFF, 0x8290)].all (aluVector .sumul) = true := by decide
theorem test_pass : [(0x0000, 0x0000, 0x0000, 0x8320), (0x8000, 0x0000, 0x8000, 0x8140), (0x0001, 0x0000, 0x0001, 0x8080), (0x7FFF, 0x0000, 0x7FFF, 0x8080)].all (aluVector .pass) = true := by decide
theorem test_not : [(0x0000, 0x0000, 0xFFFF, 0x8240), (0xFFFF, 0x0000, 0x0000, 0x8320), (0x00FF, 0x0000, 0xFF00, 0x8340)].all (aluVector .not) = true := by decide
theorem test_and : [(0xF0F0, 0x0FF0, 0x00F0, 0x8389), (0xFFFF, 0x0000, 0x0000, 0x8329), (0x1234, 0x1234, 0x1234, 0x8190)].all (aluVector .and) = true := by decide
theorem test_or : [(0xF0F0, 0x0FF0, 0xFFF0, 0x8349), (0x0000, 0x0000, 0x0000, 0x8330), (0x8000, 0x0001, 0x8001, 0x8249)].all (aluVector .or) = true := by decide
theorem test_xor : [(0xF0F0, 0x0FF0, 0xFF00, 0x8349), (0x1234, 0x1234, 0x0000, 0x8330), (0xFFFF, 0x0000, 0xFFFF, 0x8249)].all (aluVector .xor) = true := by decide
theorem test_nand : [(0xF0F0, 0x0FF0, 0xFF0F, 0x8249), (0xFFFF, 0xFFFF, 0x0000, 0x8330), (0x0000, 0x0000, 0xFFFF, 0x8250)].all (aluVector .nand) = true := by decide
theorem test_nor : [(0xF0F0, 0x0FF0, 0x000F, 0x8289), (0x0000, 0x0000, 0xFFFF, 0x8250), (0xFFFF, 0x0000, 0x0000, 0x8329)].all (aluVector .nor) = true := by decide
theorem test_xnor : [(0xF0F0, 0x0FF0, 0x00FF, 0x8289), (0x1234, 0x1234, 0xFFFF, 0x8250), (0xFFFF, 0x0000, 0x0000, 0x8329)].all (aluVector .xnor) = true := by decide
/-- A shift by 16 or more under each setting of `SHIFT_OVER` (R150). -/
theorem test_shift_over :
    aluResult Config.specDefault .rshift 0xFFFF 16 0x1234 = 0x1234#16 ∧
    aluResult { Config.specDefault with shiftOver := .zero } .lshift 1 0xFFFF 0x1234 = 0x0000#16 ∧
    aluResult { Config.specDefault with shiftOver := .mod16 } .rshift 0xFFFF 17 0x1234 = 0x7FFF#16 := by decide
/-- PASS of 0x8000 compared with 0 (R140); C after SUB 5, 7 inverted (R131). -/
theorem test_flag_parameters :
    aluFlags { Config.specDefault with oneArgB := .zero } .pass 0x8000 0 0x8000 0 = 0x8149#16 ∧
    aluFlags { Config.specDefault with subCSense := .carry } .sub 5 7 0xFFFE 0 = 0x814A#16 := by decide
/-- A drawn flag is the free bit (R37). -/
theorem test_drawn_flags : aluFlags Config.specDefault .pass 0x8000 0 0x8000 0xFFFF = 0x8D5F#16 := by decide
/-- ADD $3 0xFF 0x01 under each setting of `IMM_EXT` (R86). -/
theorem test_widening :
    (after (step (placed 0x1083FF01))).map (·.reg 3) = some 0x0100#16 ∧
    (after (exec (.add 3 (.immImm 0xFF 0x01)) { two with cfg := { two.cfg with immExt := .sign } })).map (·.reg 3) =
      some 0x0000#16 := by decide
/-- ADD $1 $1 $1 with x[1] = 0x4000: the operands are read before the write (R338). -/
theorem test_add_source_is_destination :
    (after (exec (.add 1 (.regReg 1 1)) (two.setReg 1 0x4000))).map (fun t => (t.reg 1, t.flag .of)) =
      some (0x8000#16, true) := by decide
/-- SUB $0 5 7 writes FLAGS and no register (R22, R148). -/
theorem test_compare :
    (after (exec (.sub 0 (.immImm 5 7)) two)).map (fun t => (t.flags, t.reg 0, t.reg 1, t.reg 2)) =
      some (0x854A#16, 0#16, 0x1111#16, 0x2222#16) := by decide
/-- NOT $2 $1 inverts register 1 (95_test_vectors.md S5). -/
theorem test_not_step : (after (exec (.not 2 (.reg 1)) (two.setReg 1 0x00FF))).map (·.reg 2) = some 0xFF00#16 := by
  decide

/-! Branches and selects under five values of FLAGS (95_test_vectors.md parts 4 and 5). -/

/-- Whether the branch ends at its target 0x0100. -/
def taken (f : Word) (mk : Arg → Instr) : Bool :=
  (after (exec (mk (.imm 0x0100)) { two with flags := f })).map (·.pc) == some 0x0100#16

/-- Whether the branch ends at the next instruction. -/
def notTaken (f : Word) (mk : Arg → Instr) : Bool :=
  (after (exec (mk (.imm 0x0100)) { two with flags := f })).map (·.pc) == some 0x0001#16

/-- Whether the set instruction gives A = 0x1111, and with one argument A = 1. -/
def picksA (f : Word) (mk : RegId → SetArgs → Instr) : Bool :=
  (after (exec (mk 3 (.two (.regReg 1 2))) { two with flags := f })).map (·.reg 3) == some 0x1111#16 &&
  (after (exec (mk 3 (.one (.imm 1))) { two with flags := f })).map (·.reg 3) == some 0x0001#16

/-- Whether the set instruction gives B = 0x2222, and 0 with one argument. -/
def picksB (f : Word) (mk : RegId → SetArgs → Instr) : Bool :=
  (after (exec (mk 3 (.two (.regReg 1 2))) { two with flags := f })).map (·.reg 3) == some 0x2222#16 &&
  (after (exec (mk 3 (.one (.imm 1))) { two with flags := f })).map (·.reg 3) == some 0x0000#16

theorem test_branches_under_854A :
    [.blt, .bslt, .bneg, .bev, .bc, .ble, .bsle, .bneq, .bnz, .bnegz, .bbod, .bnof].all (taken 0x854A) = true ∧
    [.bgt, .bsgt, .beq, .bz, .bpos, .bbev, .bof, .bge, .bsge, .bposz, .bod, .bnc].all (notTaken 0x854A) = true := by decide
theorem test_branches_under_8185 :
    [.bgt, .bsgt, .bpos, .bev, .bge, .bsge, .bneq, .bnz, .bposz, .bbod, .bnc, .bnof].all (taken 0x8185) = true ∧
    [.blt, .bslt, .beq, .bz, .bneg, .bbev, .bc, .bof, .ble, .bsle, .bnegz, .bod].all (notTaken 0x8185) = true := by decide
theorem test_branches_under_8330 :
    [.beq, .bz, .bev, .bbev, .ble, .bge, .bsle, .bsge, .bposz, .bnegz, .bnc, .bnof].all (taken 0x8330) = true ∧
    [.bgt, .blt, .bsgt, .bslt, .bneg, .bpos, .bc, .bof, .bneq, .bnz, .bod, .bbod].all (notTaken 0x8330) = true := by decide
theorem test_branches_under_8889 :
    [.bgt, .bslt, .bpos, .bof, .bge, .bsle, .bneq, .bnz, .bposz, .bod, .bbod, .bnc].all (taken 0x8889) = true ∧
    [.blt, .bsgt, .beq, .bz, .bneg, .bev, .bbev, .bc, .ble, .bsge, .bnegz, .bnof].all (notTaken 0x8889) = true := by decide
theorem test_branches_under_8729 :
    [.bgt, .bslt, .bz, .bev, .bbev, .bc, .bge, .bsle, .bneq, .bposz, .bnegz, .bnof].all (taken 0x8729) = true ∧
    [.blt, .bsgt, .beq, .bneg, .bpos, .bof, .ble, .bsge, .bnz, .bod, .bbod, .bnc].all (notTaken 0x8729) = true := by decide
theorem test_selects_under_854A :
    [.slt, .sslt, .sneg, .sev, .sc, .sle, .ssle, .sneq, .snz, .snegz, .sbod, .snof].all (picksA 0x854A) = true ∧
    [.sgt, .ssgt, .seq, .sz, .spos, .sbev, .sof, .sge, .ssge, .sposz, .sod, .snc].all (picksB 0x854A) = true := by decide
theorem test_selects_under_8185 :
    [.sgt, .ssgt, .spos, .sev, .sge, .ssge, .sneq, .snz, .sposz, .sbod, .snc, .snof].all (picksA 0x8185) = true ∧
    [.slt, .sslt, .seq, .sz, .sneg, .sbev, .sc, .sof, .sle, .ssle, .snegz, .sod].all (picksB 0x8185) = true := by decide
theorem test_selects_under_8330 :
    [.seq, .sz, .sev, .sbev, .sle, .sge, .ssle, .ssge, .sposz, .snegz, .snc, .snof].all (picksA 0x8330) = true ∧
    [.sgt, .slt, .ssgt, .sslt, .sneg, .spos, .sc, .sof, .sneq, .snz, .sod, .sbod].all (picksB 0x8330) = true := by decide
theorem test_selects_under_8889 :
    [.sgt, .sslt, .spos, .sof, .sge, .ssle, .sneq, .snz, .sposz, .sod, .sbod, .snc].all (picksA 0x8889) = true ∧
    [.slt, .ssgt, .seq, .sz, .sneg, .sev, .sbev, .sc, .sle, .ssge, .snegz, .snof].all (picksB 0x8889) = true := by decide
theorem test_selects_under_8729 :
    [.sgt, .sslt, .sz, .sev, .sbev, .sc, .sge, .ssle, .sneq, .sposz, .snegz, .snof].all (picksA 0x8729) = true ∧
    [.slt, .ssgt, .seq, .sneg, .spos, .sof, .sle, .ssge, .snz, .sod, .sbod, .snc].all (picksB 0x8729) = true := by decide
/-- BRN $14 (95_test_vectors.md part 4). -/
theorem test_brn : (after (exec (.brn (.reg 14)) (two.setReg 14 6))).map (·.pc) = some 0x0006#16 := by decide
/-- A target is truncated to 14 bits under `PC_WIDTH = 14`, and `pc` wraps there (R25). -/
theorem test_pc_width :
    (after (exec (.brn (.imm 0xFFFF)) { two with cfg := { two.cfg with pcWidth := .w14 } })).map (·.pc) =
      some 0x3FFF#16 ∧
    (after (exec .nop { two with pc := 0x3FFF, cfg := { two.cfg with pcWidth := .w14 } })).map (·.pc) =
      some 0x0000#16 := by decide
/-- MOV copies and leaves FLAGS (R223); LDI does the same (R224). -/
theorem test_mov_ldi :
    (after (exec (.mov 5 (.imm 0xBEEF)) two)).map (fun t => (t.reg 5, t.flags)) = some (0xBEEF#16, 0x8000#16) ∧
    (after (exec (.ldi 5 (.reg 2)) two)).map (fun t => (t.reg 5, t.flags)) = some (0x2222#16, 0x8000#16) := by decide

/-! Memory, ports, display and control (95_test_vectors.md parts 6 and 7). -/

/-- A state whose RAM holds 0xABCD at 0x0010 and 0x0007 at 0x1FFE. -/
def loaded : State := { two with ram := [(0x0010, 0xABCD#16), (0x1FFE, 0x0007#16)] }

theorem test_lod : (after (exec (.lod 3 (.imm 0x0010)) loaded)).map (·.reg 3) = some 0xABCD#16 ∧
    (after (exec (.lod 3 (.reg 15)) (loaded.setReg 15 0x1FFE))).map (·.reg 3) = some 0x0007#16 := by decide
theorem test_lod_faults : faultOf (exec (.lod 3 (.imm 0x2000)) loaded) = some (.ramOutOfRange 0x2000) ∧
    faultOf (exec (.lod 3 (.imm 0x0100)) loaded) = some (.unwrittenRead 0x0100) := by decide
theorem test_str : (after (exec (.str 1 (.imm 0x0011)) loaded)).map (·.ram) =
      some [(0x0010, 0xABCD#16), (0x0011, 0x1111#16), (0x1FFE, 0x0007#16)] ∧
    (after (exec (.str 0 (.imm 0x1FFF)) two)).map (·.ram) = some [(0x1FFF, 0x0000#16)] := by decide
theorem test_str_wraps : faultOf (exec (.str 1 (.imm 0xFFFF)) two) = some (.ramOutOfRange 0xFFFF) ∧
    (after (exec (.str 1 (.imm 0xFFFF)) { two with cfg := { two.cfg with ramOob := .wrap13 } })).map (·.ram) =
      some [(0x1FFF, 0x1111#16)] := by decide
theorem test_in : (after (exec (.inPort 4 (.imm 2)) { two with inputs := [0x00FF, 5] })).map
      (fun t => (t.reg 4, t.inputs)) = some (0x00FF#16, [5#16]) ∧
    faultOf (exec (.inPort 4 (.imm 16)) two) = some (.portOutOfRange 16) := by decide
theorem test_out : (after (exec (.outPort 2 (.imm 15)) two)).map (fun t => (t.outPort 15, t.events)) =
      some (0x2222#16, [.out 15 0x2222]) ∧
    (after (exec (.outPort 2 (.imm 17)) { two with cfg := { two.cfg with portOob := .low4 } })).map (·.events) =
      some [.out 1 0x2222] := by decide
theorem test_gfxsp : (after (exec (.gfxsp 8 (.immReg 300 2)) ((two.setReg 8 0x000C).setReg 2 0x0064))).map (·.events) =
    some [.gfx 300 100 0x000C] := by decide
theorem test_nop_and_hlt :
    (after (exec .nop { two with pc := 7 })).map (fun t => (t.pc, t.clocks)) = some (8#16, 4) ∧
    (after (exec .hlt { two with pc := 5 })).map (fun t => (t.pc, t.runState)) = some (5#16, .halted) := by decide
theorem test_stl : (after (exec (.stl (.imm 48)) { two with pc := 3 })).map (·.pc) = some 4#16 := by decide
theorem test_reserved_step : faultOf (step (placed 0x4E430001)) = some (.reservedInstruction 0x4E) := by decide
theorem test_fetch_faults :
    faultOf (step { two with pc := 0x3400 }) = some (.fetchOutOfRange 0x3400) ∧
    faultOf (step (placed 0x00010000)) = some (.illegalEncoding 0x00010000 .destination) := by decide
/-- The CPU does nothing before Button 2, which takes a step of its own (R33, R332; entry 8). -/
theorem test_start : (after (step { State.reset with operator := [.button2, .idle] })).map
    (fun t => (t.runState, t.pc, t.operator)) = some (.running, 0#16, [.idle]) := by decide
/-- The reset event restores the RAM image (R330). -/
theorem test_reset_event : (after (step { loaded with ramImage := [(1, 2)], operator := [.reset] })).map
    (fun t => (t.runState, t.ram, t.reg 1)) = some (.notStarted, [(1, 2#16)], 0#16) := by decide
/-- The reference expansions (R285): CAL .double at address 2 and RET, with the words of 95_test_vectors.md P4; PSH and POP. -/
theorem test_macros :
    (cal 2 8).map (·.map encode) = some [0x4F4E0006#32, 0x11AFF001#32, 0xC46E000F#32, 0x2F400008#32] ∧
    ret.map encode = [0xC06E000F#32, 0x10AFF001#32, 0x2F60000E#32] ∧
    (pshReg 3).map encode = [0x11AFF001#32, 0xC463000F#32] ∧ (popReg 4).map encode = [0xC064000F#32, 0x10AFF001#32] ∧
    (pshImm 7).map encode = [0x11AFF001#32, 0x4F4E0007#32, 0xC46E000F#32] := by decide
/-- DW 0x5 0x9 0x15 0xF8 (95_test_vectors.md S6). -/
theorem test_images : ramImageOf [0x5, 0x9, 0x15, 0xF8] = [(0, 0x5#16), (1, 0x9#16), (2, 0x15#16), (3, 0xF8#16)] ∧
    programOf [.nop, .hlt] = [(0, 0#32), (1, 0x08000000#32)] := by decide
/-- BGT ~+2 at address 5 (95_test_vectors.md S4), and the last target a 16-bit immediate holds (R283, R96). -/
theorem test_relativeTarget : (relativeTarget 5 2).map (fun a => encode (.bgt (.imm a))) = some 0x20400007#32 ∧
    relativeTarget 100 65435 = some 0xFFFF ∧ relativeTarget 100 65436 = none := by decide
/-- Palette row 1000 is Red, #ff0062 (95_test_vectors.md S9). -/
theorem test_palette : palette 8 = { r := 3, g := 0, b := 1 } ∧
    [level888 3, level888 0, level888 1] = [0xFF#8, 0x00#8, 0x62#8] := by decide
/-- On a screen of 4 by 3 a pixel keeps the last colour set; a coordinate off the screen has none, and nothing is known of a
pixel after a request off the screen until it is set again (R273; entry 27). -/
theorem test_pixel :
    pixelValue ⟨4, 3⟩ [.gfx 1 2 3, .out 0 9, .gfx 1 2 4, .gfx 2 1 5] 1 2 = some 4#16 ∧
    pixelValue ⟨4, 3⟩ [.gfx 1 2 3, .gfx 4 0 4, .gfx 3 2 5] 3 2 = some 5#16 ∧
    pixelValue ⟨4, 3⟩ [.gfx 1 2 3, .gfx 4 0 4] 1 2 = none ∧ pixelValue ⟨4, 3⟩ [.gfx 4 0 4] 4 0 = none := by decide
/-- The placed instruction is the one the next step runs (entry 7). -/
theorem test_withFetchWord : (after (step (placed 0x4F430007))).map (fun t => (t.reg 3, t.pc)) = some (7#16, 1#16) := by
  decide
theorem test_reset : State.reset.runState = .notStarted ∧ State.reset.ram = [] ∧ State.reset.flags = 0x8000#16 := by
  decide

/-! Witnesses: for each statement with hypotheses, a state and operands that meet all of them, one for each clause. -/

theorem inv_of_small (s : State) (h1 : Memory.wf ramWords s.ram = true) (h2 : Memory.wf romEntries s.rom = true)
    (h3 : Memory.wf ramWords s.ramImage = true) (h4 : s.pc.toNat < 2 ^ s.cfg.pcWidth.bits)
    (h5 : s.flags &&& 0xF000#16 = 0x8000#16) (h6 : s.events = []) : s.Inv :=
  ⟨h1, h2, h3, h4, h5, fun p v h => by simp [h6, lastOut] at h⟩

theorem witness_InvariantHoldsAtReset :
    Memory.wf romEntries [(0, 0x08000000#32), (13311, 0#32)] = true ∧ Memory.wf ramWords [(0, 5#16), (8191, 7#16)] = true := by
  decide
/-- The machine meets the invariant at reset with an instruction placed, and steps. -/
theorem witness_EveryStepKeepsTheInvariant : (placed 0xCC430002).Inv ∧ ∃ t, step (placed 0xCC430002) = .next t :=
  ⟨inv_of_small _ (by decide) (by decide) (by decide) (by decide) (by decide) rfl, _, rfl⟩
theorem witness_OnlyButtonTwoStartsTheCpu :
    (State.reset.runState = .notStarted ∧ State.reset.operator = []) ∧
    (let s : State := { State.reset with operator := [.button2] }
     s.runState = .notStarted ∧ s.operator = .button2 :: [] ∧ OperatorAction.button2 ≠ .reset) ∧
    (let s : State := { State.reset with operator := [.idle, .reset] }
     s.runState = .notStarted ∧ s.operator = .idle :: [.reset] ∧ OperatorAction.idle ≠ .reset) := by decide
theorem witness_HaltedIsLeftOnlyByReset : ({ two with runState := .halted } : State).runState = .halted := rfl
theorem witness_ButtonsLeaveARunningCpuAlone :
    let s : State := { two with operator := [.button3] }
    s.runState = .running ∧ s.operator = .button3 :: [] ∧ OperatorAction.button3 ∈ [OperatorAction.button1, .button2, .button3] := by
  decide
theorem witness_ResetEventRestoresTheStartState : ({ two with operator := [.reset] } : State).operator = .reset :: [] := rfl

/-- A running CPU at the last ROM entry, which holds HLT; the operator does nothing. -/
def lastEntry : State := { two with pc := 0x33FF, rom := [(0x33FF, 0x08000000#32)], operator := [.idle] }

theorem witness_StepRunsTheDecodedInstruction :
    (CpuRuns lastEntry ∧ lastEntry.pc.toNat < romEntries ∧
      Memory.read lastEntry.rom lastEntry.pc.toNat = some 0x08000000#32 ∧ decode 0x08000000#32 = .instr .hlt) ∧
    (CpuRuns (placed 0) ∧ (placed 0).pc.toNat < romEntries ∧ Memory.read (placed 0).rom (placed 0).pc.toNat = some 0#32 ∧
      decode 0#32 = .instr .nop) :=
  ⟨⟨⟨rfl, .inr ⟨[], rfl⟩⟩, by decide⟩, ⟨⟨rfl, .inl rfl⟩, by decide⟩⟩
theorem witness_FetchAndDecodeFaultsAreReported :
    (CpuRuns { two with pc := 0x3400 } ∧ romEntries ≤ ({ two with pc := 0x3400 } : State).pc.toNat) ∧
    (CpuRuns { two with pc := 0x33FF } ∧ Memory.read ({ two with pc := 0x33FF } : State).rom 0x33FF = none) ∧
    (CpuRuns (placed 0x01000000) ∧ (placed 0x01000000).pc.toNat < romEntries ∧
      Memory.read (placed 0x01000000).rom (placed 0x01000000).pc.toNat = some 0x01000000#32 ∧
      decode 0x01000000#32 = .illegal .unlistedIdentifier) :=
  ⟨⟨⟨rfl, .inl rfl⟩, by decide⟩, ⟨⟨rfl, .inl rfl⟩, by decide⟩, ⟨⟨rfl, .inl rfl⟩, by decide⟩⟩
theorem witness_ReservedIdentifiersFault :
    (CpuRuns (placed 0x2C000000) ∧ (placed 0x2C000000).pc.toNat < romEntries ∧
      Memory.read (placed 0x2C000000).rom (placed 0x2C000000).pc.toNat = some 0x2C000000#32 ∧
      (0x2C000000#32 >>> 24).toNat ∈ reservedIds) ∧
    (CpuRuns (placed 0x5FFFFFFF) ∧ (placed 0x5FFFFFFF).pc.toNat < romEntries ∧
      Memory.read (placed 0x5FFFFFFF).rom (placed 0x5FFFFFFF).pc.toNat = some 0x5FFFFFFF#32 ∧
      (0x5FFFFFFF#32 >>> 24).toNat ∈ reservedIds) :=
  ⟨⟨⟨rfl, .inl rfl⟩, by decide⟩, ⟨⟨rfl, .inl rfl⟩, by decide⟩⟩
/-- A word in each of the ranges of unlisted identifiers, at both ends of two of them. -/
theorem witness_UnlistedIdentifiersAreRefused : ∀ w ∈ [0x01000000#32, 0x03000000#32, 0x05000000#32, 0x09000000#32,
    0x60000000#32, 0xBF000000#32, 0xC1000000#32, 0xC5000000#32, 0xC9000000#32, 0xCD000000#32, 0xD1000000#32],
    let I := (w >>> 24).toNat
    (0x01 ≤ I ∧ I ≤ 0x03) ∨ (0x05 ≤ I ∧ I ≤ 0x07) ∨ (0x09 ≤ I ∧ I ≤ 0x0F) ∨ (0x60 ≤ I ∧ I ≤ 0xBF) ∨
      (0xC1 ≤ I ∧ I ≤ 0xC3) ∨ (0xC5 ≤ I ∧ I ≤ 0xC7) ∨ (0xC9 ≤ I ∧ I ≤ 0xCB) ∨ (0xCD ≤ I ∧ I ≤ 0xCF) ∨ 0xD1 ≤ I := by
  intro w hw
  simp only [List.mem_cons, List.not_mem_nil, or_false] at hw
  rcases hw with rfl | rfl | rfl | rfl | rfl | rfl | rfl | rfl | rfl | rfl | rfl <;> decide
/-- Words without and with a padding bit, in both forms that have padding. -/
theorem witness_DecodingMakesItsChecksInOrder :
    Padded 0x04600013#32 ∧ Padded 0x10B30112#32 ∧ ¬ Padded 0x04600003#32 ∧ ¬ Padded 0x10B30102#32 := by
  unfold Padded; decide
theorem witness_EncodedInstructionsDecodeToThemselves : (Instr.gfxsp 15 (.immImm 0xFF 0xFF)).WellFormed := by decide
theorem witness_DecodedWordsAreCanonicalUpToIgnoredBits :
    (decode 0x0030FFFF#32 = .instr .nop ∧ Instr.nop.isReserved = false) ∧
    (decode 0x2CFFFFFF#32 = .instr (.reserved2C 0xFFFFFF) ∧ (Instr.reserved2C 0xFFFFFF).isReserved = true) := by decide
theorem witness_OperandValuesAreWidened : two.cfg.immExt = .zero ∧
    ({ two with cfg := { two.cfg with immExt := .sign } } : State).cfg.immExt = .sign := by decide
theorem witness_NopOnlyAdvances : (0x0030FFFF#32 >>> 24).toNat = 0 ∧ CpuRuns two ∧ Memory.read two.rom two.pc.toNat = none :=
  ⟨by decide, ⟨rfl, .inl rfl⟩, by decide⟩
theorem witness_SubGivesTheDifferenceAndItsFlags : two.cfg.subCSense = .borrow ∧
    ({ two with cfg := { two.cfg with subCSense := .carry } } : State).cfg.subCSense = .carry := by decide
/-- Amounts 15 and 16, and each setting of `SHIFT_OVER`. -/
theorem witness_ShiftsAreLogical :
    (two.valB (.regImm 1 15)).toNat < 16 ∧ (16 ≤ (two.valB (.regImm 1 16)).toNat ∧ two.cfg.shiftOver = .draw) ∧
    (let s : State := { two with cfg := { two.cfg with shiftOver := .zero } }
     16 ≤ (s.valB (.regImm 1 16)).toNat ∧ s.cfg.shiftOver = .zero) ∧
    (let s : State := { two with cfg := { two.cfg with shiftOver := .mod16 } }
     16 ≤ (s.valB (.regImm 1 16)).toNat ∧ s.cfg.shiftOver = .mod16) := by decide
theorem witness_PassCopiesAndNotComplements : two.cfg.oneArgB = .draw ∧
    ({ two with cfg := { two.cfg with oneArgB := .zero } } : State).cfg.oneArgB = .zero := by decide
theorem witness_FlagsAreExclusiveAfterAnAluInstruction :
    (∃ t, exec (.add 3 (.regReg 1 2)) two = .next t) ∧ ∃ t, exec (.pass 3 (.reg 1)) two = .next t := ⟨⟨_, rfl⟩, _, rfl⟩
theorem witness_MultiplyPairsGiveTheWholeProduct : (3 : RegId) ≠ 0 ∧ (4 : RegId) ≠ 0 ∧ ∃ l u sl su,
    exec (.mul 3 (.regReg 1 2)) two = .next l ∧ exec (.umul 4 (.regReg 1 2)) two = .next u ∧
    exec (.smul 3 (.regReg 1 2)) two = .next sl ∧ exec (.sumul 4 (.regReg 1 2)) two = .next su :=
  ⟨by decide, by decide, _, _, _, _, rfl, rfl, rfl, rfl⟩
theorem witness_BranchPairsAreComplementary : ∃ t u,
    exec (.bgt (.imm 0x33FF)) two = .next t ∧ exec (.ble (.imm 0x33FF)) two = .next u := ⟨_, _, rfl, rfl⟩
/-- Equal operands and operands of either order. -/
theorem witness_CompareThenBranchFollowsTheComparison :
    (∃ t u, exec (.sub 0 (.regReg 1 2)) two = .next t ∧ exec (.bgt (.imm 9)) t = .next u) ∧
    ¬ (two.valA (.regReg 1 2)).toNat > (two.valB (.regReg 1 2)).toNat ∧
    (two.valA (.regReg 2 1)).toNat > (two.valB (.regReg 2 1)).toNat ∧ two.valA (.regReg 1 1) = two.valB (.regReg 1 1) :=
  ⟨⟨_, _, rfl, rfl⟩, by decide⟩
theorem witness_CompareThenSelectGivesMaximumAndMinimum : (3 : RegId) ≠ 0 ∧ ∃ t u,
    exec (.sub 0 (.regReg 1 2)) two = .next t ∧ exec (.sgt 3 (.two (.regReg 1 2))) t = .next u :=
  ⟨by decide, _, _, rfl, rfl⟩
/-- Under `RAM_OOB = wrap13`. -/
def wrapping : State := { loaded with ram := [(0, 5), (8191, 7)], cfg := { loaded.cfg with ramOob := .wrap13 } }

/-- The last word of RAM, and address 8,192 under `wrap13`. -/
theorem witness_LodReadsTheHeldWord :
    ((wrapping.valArg (.imm 8191)).toNat < 8192 ∧ wrapping.ramWord ((wrapping.valArg (.imm 8191)).toNat % 8192) = some 7) ∧
    (wrapping.cfg.ramOob = .wrap13 ∧ wrapping.ramWord ((wrapping.valArg (.imm 8192)).toNat % 8192) = some 5) := by decide
theorem witness_LodOfAnUnwrittenWord :
    ((two.valArg (.imm 8191)).toNat < 8192 ∧ two.ramWord ((two.valArg (.imm 8191)).toNat % 8192) = none ∧
      two.cfg.unwritten = .fault) ∧
    (let s : State := { wrapping with cfg := { wrapping.cfg with unwritten := .draw } }
     s.cfg.ramOob = .wrap13 ∧ s.ramWord ((s.valArg (.imm 8193)).toNat % 8192) = none ∧ s.cfg.unwritten = .draw) := by decide
theorem witness_RamOutOfRangeFaults : 8192 ≤ (two.valArg (.imm 8192)).toNat ∧ two.cfg.ramOob = .fault := by decide
theorem witness_RamWriteReplacesOneWord : 8192 ≤ (8192#16).toNat ∧ two.cfg.ramOob = .fault ∧ (8191#16).toNat < 8192 ∧
    wrapping.cfg.ramOob = .wrap13 := by decide
theorem witness_StrWritesOneWord : (two.valArg (.imm 8191)).toNat < 8192 ∧ wrapping.cfg.ramOob = .wrap13 := by decide
theorem witness_StoreThenLoadGivesTheStoredValue :
    ∃ t, exec (.str 1 (.imm 0x1111)) two = .next t ∧ t.valArg (.reg 1) = two.valArg (.imm 0x1111) := ⟨_, rfl, by decide⟩
/-- Port 15 and, under `PORT_OOB = low4`, port number 16; with a listed input and without. -/
theorem witness_InReadsTheEnvironment :
    ((two.valArg (.imm 15)).toNat < 16 ∧ two.inputs = []) ∧
    (let s : State := { two with inputs := [8], cfg := { two.cfg with portOob := .low4 } }
     16 ≤ (s.valArg (.imm 16)).toNat ∧ s.cfg.portOob = .low4 ∧ s.inputs = 8 :: []) := by decide
theorem witness_OutSetsTheLatchAndRecordsTheEvent : (two.valArg (.imm 15)).toNat < 16 ∧
    ({ two with cfg := { two.cfg with portOob := .low4 } } : State).cfg.portOob = .low4 ∧ (15 : PortId) ≠ 14 := by decide
theorem witness_PortOutOfRangeFaults : 16 ≤ (two.valArg (.imm 16)).toNat ∧ two.cfg.portOob = .fault := by decide
theorem witness_GfxspSendsOneRequest :
    onScreen ⟨4, 3⟩ (two.valA (.immImm 3 2)) (two.valB (.immImm 3 2)) ∧ (0 : Word) ≠ two.valA (.immImm 3 2) ∧
    ¬ onScreen ⟨4, 3⟩ (two.valA (.immImm 4 2)) (two.valB (.immImm 4 2)) := by decide
theorem witness_OnlyAluInstructionsWriteFlags :
    ∃ t, exec (.lod 3 (.imm 0x0010)) loaded = .next t ∧ (encode (.lod 3 (.imm 0x0010)) >>> 28).toNat ≠ 1 :=
  ⟨_, rfl, by decide⟩
theorem witness_OnlyTheDestinationIsWritten : (15 : RegId) ≠ 0 ∧
    (∃ t, exec (.stl (.imm 1)) two = .next t ∧ (encode (.stl (.imm 1)) >>> 24).toNat < 0x10) ∧
    (∃ t, exec (.bnof (.imm 1)) two = .next t ∧ (encode (.bnof (.imm 1)) >>> 24).toNat = 0x3B) ∧
    ∃ t, exec (.gfxsp 1 (.immImm 1 1)) two = .next t ∧ (encode (.gfxsp 1 (.immImm 1 1)) >>> 24).toNat = 0xD0 :=
  ⟨by decide, ⟨_, rfl, by decide⟩, ⟨_, rfl, by decide⟩, _, rfl, by decide⟩
theorem witness_RegisterZeroIsHardwired :
    (Instr.inPort 0 (.imm 1), Instr.inPort 5 (.imm 1)) ∈ [(Instr.inPort 0 (.imm 1), Instr.inPort 5 (.imm 1))] ∧
    (∃ t, exec (.inPort 0 (.imm 1)) { two with inputs := [3] } = .next t) ∧
    ∃ f, exec (.lod 0 (.imm 1)) two = .fault f := ⟨by decide, ⟨_, rfl⟩, _, rfl⟩
theorem witness_NoStepChangesTheProgram :
    (∃ t, exec (.str 1 (.imm 1)) two = .next t) ∧ (∃ t, step (placed 0xC4410001) = .next t) ∧
    ∃ t, Host.Core.run Sys2Proof.core 1 (placed 0xC4410001) = .next t := ⟨⟨_, rfl⟩, ⟨_, rfl⟩, _, rfl⟩
theorem witness_OnlyStrChangesAHeldRamWord : (∃ t, exec (.lod 3 (.imm 0x0010)) loaded = .next t) ∧
    (∀ d a, Instr.lod 3 (.imm 0x0010) ≠ .str d a) ∧ loaded.ramWord 0x0010 = some 0xABCD ∧ loaded.cfg.unwritten = .fault :=
  ⟨⟨_, rfl⟩, fun _ _ h => by simp at h, by decide, by decide⟩
theorem witness_EventsAreAppendedInProgramOrder :
    (∃ t, exec (.outPort 1 (.imm 0)) two = .next t ∧ (encode (.outPort 1 (.imm 0)) >>> 24).toNat = 0xCC) ∧
    (∃ t, exec (.gfxsp 1 (.immImm 0 0)) two = .next t ∧ (encode (.gfxsp 1 (.immImm 0 0)) >>> 24).toNat = 0xD0) ∧
    ∃ t, exec (.inPort 1 (.imm 0)) two = .next t ∧ (encode (.inPort 1 (.imm 0)) >>> 24).toNat = 0xC8 :=
  ⟨⟨_, rfl, by decide⟩, ⟨_, rfl, by decide⟩, _, rfl, by decide⟩
theorem witness_OnlyHltChangesTheRunState : (∃ t, exec .nop two = .next t) ∧ Instr.nop ≠ .hlt := ⟨⟨_, rfl⟩, by decide⟩
theorem witness_EveryInstructionButStlTakesFourClocks :
    (∃ t, exec .hlt two = .next t) ∧ ∀ a, Instr.hlt ≠ .stl a := ⟨⟨_, rfl⟩, fun _ h => by simp at h⟩
theorem witness_PcMovesInSequenceOrToATarget : ∃ t, exec (.brn (.imm 0xFFFF)) two = .next t := ⟨_, rfl⟩
theorem witness_OutputsAndTimeAreInvisible :
    (∃ f, exec (.lod 1 (.imm 0)) two = .fault f) ∧ ∃ t, exec (.outPort 1 (.imm 0)) two = .next t := ⟨⟨_, rfl⟩, _, rfl⟩

end Sys2Proof.Tests
end

section
/-! PROOF. Which registers an instruction writes (10_state.md R23, 30_encoding.md R89). -/

namespace Sys2Proof.Machine

/-! What the shared operations do to the registers. -/

/-- Where every register reads as before, every register but `d` does. -/
theorem SameRegs.but {s t : State} (h : SameRegs s t) (d : RegId) : SameRegsBut d s t := fun r _ => h r

theorem State.setReg_sameRegsBut (s : State) (d : RegId) (v : Word) : SameRegsBut d s (s.setReg d v) :=
  fun r hr => s.setReg_reg_other d r v hr

/-- The end of an instruction leaves the registers alone. -/
theorem SameRegs.advance {s s' : State} (h : SameRegs s s') : SameRegs s s'.advance := h

/-- A write to `d` at the end of an instruction whose other effects leave the registers alone. -/
theorem SameRegs.setReg_advance {s s' : State} (h : SameRegs s s') (d : RegId) (v : Word) :
    SameRegsBut d s (s'.setReg d v).advance :=
  fun r hr => (s'.setReg_sameRegsBut d v r hr).trans (h r)

theorem State.memRead_sameRegs {s s' : State} {addr v : Word} (h : s.memRead addr = .ok (v, s')) : SameRegs s s' := by
  obtain ⟨a, -, ⟨-, rfl⟩ | ⟨-, -, -, rfl⟩⟩ := s.memRead_cases addr v s' h
  · exact fun _ => rfl
  · exact fun _ => rfl

theorem State.memWrite_sameRegs {s s' : State} {addr v : Word} (h : s.memWrite addr v = .ok s') : SameRegs s s' := by
  obtain ⟨a, -, rfl⟩ := s.memWrite_cases addr v s' h
  exact fun _ => rfl

theorem State.portIn_sameRegs {s s' : State} {n v : Word} (h : s.portIn n = .ok (v, s')) : SameRegs s s' := by
  obtain ⟨p, -, ⟨rest, -, rfl⟩ | ⟨-, -, rfl⟩⟩ := s.portIn_cases n v s' h
  · exact fun _ => rfl
  · exact fun _ => rfl

theorem State.portOut_sameRegs {s s' : State} {n v : Word} (h : s.portOut n v = .ok s') : SameRegs s s' := by
  obtain ⟨p, -, rfl⟩ := s.portOut_cases n v s' h
  exact fun _ => rfl

/-! What an instruction does to the registers. -/

/-- The identifiers of the instructions that have a destination (R23, R89): the ALU instructions, the set instructions with
MOV, LOD and IN. -/
def HasDest (I : Nat) : Prop := (0x10 ≤ I ∧ I < 0x20) ∨ (0x40 ≤ I ∧ I < 0x60) ∨ I = 0xC0 ∨ I = 0xC8

/-- The identifier and the field D of a word with one argument, as numbers. -/
theorem encodeOne_fields (I : BitVec 8) (d : RegId) (a : Arg) :
    (encodeOne I d a >>> 24).toNat = I.toNat ∧ (encodeOne I d a >>> 16).toNat % 16 = d.toNat := by
  obtain ⟨aa, x, y, l, hp⟩ := encodeOne_packed I d a
  rw [hp, packFields_shiftRight_24, packFields_shiftRight_16]
  exact ⟨rfl, rfl⟩

/-- An instruction that answers a next state writes no register, or it has a destination and writes no register but the
one its field D names. -/
theorem exec_writesDestOnly {i : Instr} {s t : State} (hexec : exec i s = .next t) :
    SameRegs s t ∨ ∃ d : RegId, (encode i >>> 16).toNat % 16 = d.toNat ∧ HasDest (encode i >>> 24).toNat ∧
      SameRegsBut d s t := by
  cases exec_cases i s t hexec with
  | nop h => subst h; exact .inl fun _ => rfl
  | stl a h => subst h; exact .inl fun _ => rfl
  | hlt h => subst h; exact .inl fun _ => rfl
  | alu op d a b h _ hd h24 => subst h; exact .inr ⟨d, hd, .inl h24, fun r hr => s.alu_reg_other op d a b r hr⟩
  | branch a _ h => rcases h with rfl | rfl <;> exact .inl fun _ => rfl
  | set d v h hd h24 => subst h; exact .inr ⟨d, hd, .inr (.inl h24), s.setReg_sameRegsBut d v⟩
  | lod d a v s' h ht hi =>
    subst ht hi
    obtain ⟨hI, hd⟩ := encodeOne_fields 0xC0#8 d a
    exact .inr ⟨d, hd, .inr (.inr (.inl hI)), (State.memRead_sameRegs h).setReg_advance d v⟩
  | str d a s' h ht => subst ht; exact .inl (State.memWrite_sameRegs h).advance
  | inPort d a v s' h ht hi =>
    subst ht hi
    obtain ⟨hI, hd⟩ := encodeOne_fields 0xC8#8 d a
    exact .inr ⟨d, hd, .inr (.inr (.inr hI)), (State.portIn_sameRegs h).setReg_advance d v⟩
  | outPort d a s' h ht => subst ht; exact .inl (State.portOut_sameRegs h).advance
  | gfxsp d ab h => subst h; exact .inl fun _ => rfl

/-- The identifiers that the statement lists as writing no register have no destination. -/
theorem not_hasDest {I : Nat} (h : I < 0x10 ∨ (0x20 ≤ I ∧ I < 0x40) ∨ I ∈ [0xC4, 0xCC, 0xD0]) : ¬ HasDest I := by
  simp only [List.mem_cons, List.not_mem_nil, or_false] at h
  unfold HasDest
  omega

/-- Settles O49: a written register reads back, and an instruction writes no register but the one in its field D
(`exec_writesDestOnly`), which the listed identifiers do not have (`not_hasDest`). -/
theorem onlyTheDestinationIsWritten : Obligations.OnlyTheDestinationIsWritten := by
  refine ⟨fun s r v hr => ⟨by rw [s.setReg_reg_same r v, if_neg hr], s.setReg_sameRegsBut r v⟩, fun i s t h => ?_⟩
  rcases exec_writesDestOnly h with hsame | ⟨d, hd, hdest, hbut⟩
  · exact ⟨hsame.but _, fun _ => hsame⟩
  · refine ⟨?_, fun hnone => absurd hdest (not_hasDest hnone)⟩
    rwa [hd, BitVec.ofNat_toNat, BitVec.setWidth_eq]

end Sys2Proof.Machine
end

section
/-! PROOF. The RAM write (20_memory.md R53). -/

namespace Sys2Proof.Machine

/-- No RAM word is named beyond the RAM under `RAM_OOB = fault` (R52, R53). -/
theorem ramIndex_eq_none (cfg : Config) (addr : Word) (haddr : ramWords ≤ addr.toNat) (hoob : cfg.ramOob = .fault) :
    ramIndex cfg addr = none := by
  unfold ramIndex
  rw [if_neg (Nat.not_lt.mpr haddr), hoob]

/-- The RAM write where the address names no word. -/
theorem State.memWrite_outOfRange (s : State) (addr v : Word) (haddr : ramWords ≤ addr.toNat)
    (hoob : s.cfg.ramOob = .fault) : s.memWrite addr v = .error (.ramOutOfRange addr) := by
  unfold State.memWrite
  rw [ramIndex_eq_none s.cfg addr haddr hoob]

/-- The RAM write where the address names a word. -/
theorem State.memWrite_eq_putRam (s : State) (addr v : Word) (h : addr.toNat < ramWords ∨ s.cfg.ramOob = .wrap13) :
    s.memWrite addr v = .ok (s.putRam (addr.toNat % ramWords) v) := by
  unfold State.memWrite
  rw [ramIndex_eq s.cfg addr h]

/-- Settles O41: the address names no word or the one `putRam` replaces, and `putRam` touches that word alone. -/
theorem ramWriteReplacesOneWord : Obligations.RamWriteReplacesOneWord := by
  intro s addr v
  refine ⟨s.memWrite_outOfRange addr v, fun h => ⟨_, s.memWrite_eq_putRam addr v h, ?_, ?_, ?_⟩⟩
  · exact s.putRam_ramWord_same _ v
  · exact fun b hb => s.putRam_ramWord_other _ b v hb
  · rfl

end Sys2Proof.Machine
end

section
/-! PROOF. The Reserved identifiers (30_encoding.md R91). -/

namespace Sys2Proof.Machine

/-! The step of a running CPU. -/

/-- A step in which the CPU has its turn runs one instruction, once the operator's `idle` is used up (R57). -/
theorem step_eq_runInstruction {s : State} (h : CpuRuns s) : step s = (afterIdle s).runInstruction := by
  obtain ⟨hrun, hop⟩ := h
  have hturn : step s = (afterIdle s).runCpu := by
    rcases hop with hnone | ⟨rest, hidle⟩
    · have hsame : afterIdle s = s := by rw [afterIdle, hnone, List.tail_nil, ← hnone]
      rw [step, hnone, hsame]
    · rw [step, hidle, afterIdle, hidle, List.tail_cons]
  rw [hturn, State.runCpu, show (afterIdle s).runState = .running from hrun]

/-- The instruction that the fetched word decodes to is the one executed (R57). -/
theorem State.runInstruction_eq_exec {s : State} {w : InstrWord} {i : Instr} (hw : s.fetch = some w)
    (hi : decode w = .instr i) : s.runInstruction = exec i s := by
  simp only [State.runInstruction, hw, hi]

/-! The Reserved words. -/

/-- A Reserved identifier decodes, whatever the other fields, to a row whose meaning is the fault of R91 with that
identifier. -/
theorem decodeFields_reserved {I : Nat} (hI : I ∈ reservedIds) (aa : BitVec 2) (x y : Bool) (d : BitVec 4)
    (lower : BitVec 16) : ∃ i, decodeFields (BitVec.ofNat 8 I) aa x y d lower = .instr i ∧
      ∀ s, exec i s = .fault (.reservedInstruction (BitVec.ofNat 8 I)) := by
  simp only [reservedIds, List.mem_cons, List.not_mem_nil, or_false] at hI
  rcases hI with rfl | rfl | rfl | rfl | rfl | rfl | rfl | rfl | rfl | rfl | rfl | rfl | rfl | rfl <;>
    exact ⟨_, rfl, fun _ => rfl⟩

/-- A word with a Reserved identifier decodes to a row whose meaning is the fault of R91. -/
theorem decode_reserved {w : InstrWord} (hI : (w >>> 24).toNat ∈ reservedIds) : ∃ i, decode w = .instr i ∧
    ∀ s, exec i s = .fault (.reservedInstruction (BitVec.ofNat 8 (w >>> 24).toNat)) := by
  have hfield : fieldI w = BitVec.ofNat 8 (w >>> 24).toNat := by
    rw [toNat_shiftRight_24, BitVec.ofNat_toNat, BitVec.setWidth_eq]
  rw [decode, hfield]
  exact decodeFields_reserved hI _ _ _ _ _

/-- Settles O10: the fetched word decodes to a row whose meaning is the fault (`decode_reserved`), and the step executes
that row; the 14 rows themselves are the fault by their definitions. -/
theorem reservedIdentifiersFault : Obligations.ReservedIdentifiersFault := by
  refine ⟨fun s w hcpu hpc hrom hI => ?_, fun rest s =>
    ⟨rfl, rfl, rfl, rfl, rfl, rfl, rfl, rfl, rfl, rfl, rfl, rfl, rfl, rfl⟩⟩
  obtain ⟨i, hdecode, hfault⟩ := decode_reserved hI
  have hfetch : (afterIdle s).fetch = some w := (State.fetch_eq_some _ w).mpr ⟨hpc, hrom⟩
  calc step s = (afterIdle s).runInstruction := step_eq_runInstruction hcpu
    _ = exec i (afterIdle s) := State.runInstruction_eq_exec hfetch hdecode
    _ = _ := hfault _

end Sys2Proof.Machine
end

section
/-! PROOF. The invariant: it holds after every reset and every step keeps it (10_state.md R25, R26, R32; 20_memory.md R51, R56). -/

namespace Sys2Proof.Machine

/-! Each operation on the state keeps the invariant. -/

/-- The invariant speaks of no register, run state, input, operator action, draw or clock. -/
theorem State.Inv.of_same {s t : State} (h : s.Inv)
    (ht : t = { s with regs := t.regs, runState := t.runState, inputs := t.inputs, operator := t.operator,
                       draws := t.draws, clocks := t.clocks }) : t.Inv := by
  rw [ht]
  exact ⟨h.ram_wf, h.rom_wf, h.image_wf, h.pc_fits, h.flags_fixed, h.latches⟩

theorem State.Inv.setReg {s : State} (h : s.Inv) (d : RegId) (v : Word) : (s.setReg d v).Inv :=
  h.of_same (by unfold State.setReg; split <;> rfl)

theorem State.Inv.withOperator {s : State} (h : s.Inv) (l : List OperatorAction) : { s with operator := l }.Inv :=
  h.of_same rfl

/-- The program counter may move to any address that fits (R25). -/
theorem State.Inv.withPc {s : State} (h : s.Inv) {pc : Word} (hpc : pc.toNat < 2 ^ s.cfg.pcWidth.bits) :
    { s with pc := pc }.Inv :=
  ⟨h.ram_wf, h.rom_wf, h.image_wf, hpc, h.flags_fixed, h.latches⟩

theorem nextPc_fits (cfg : Config) (pc : Word) : (nextPc cfg pc).toNat < 2 ^ cfg.pcWidth.bits := by
  rw [nextPc_toNat]; exact Nat.mod_lt _ (PcWidth_pow_le _).2

theorem truncPc_fits (cfg : Config) (t : Word) : (truncPc cfg t).toNat < 2 ^ cfg.pcWidth.bits := by
  rw [truncPc_toNat]; exact Nat.mod_lt _ (PcWidth_pow_le _).2

theorem State.Inv.advance {s : State} (h : s.Inv) : s.advance.Inv :=
  (h.withPc (nextPc_fits s.cfg s.pc)).of_same rfl

theorem State.Inv.stall {s : State} (h : s.Inv) (a : Word) : (s.stall a).Inv :=
  (h.withPc (nextPc_fits s.cfg s.pc)).of_same rfl

theorem State.Inv.jump {s : State} (h : s.Inv) (t : Word) : (s.jump t).Inv :=
  (h.withPc (truncPc_fits s.cfg t)).of_same rfl

theorem State.Inv.halt {s : State} (h : s.Inv) : s.halt.Inv := h.of_same rfl

/-- The flags an ALU instruction loads have bits 12 to 15 as R26 lays them out (`aluFlags_fixed`). -/
theorem State.Inv.alu {s : State} (h : s.Inv) (op : AluOp) (d : RegId) (a b : Word) : (s.alu op d a b).Inv where
  ram_wf := by simpa using h.ram_wf
  rom_wf := by simpa using h.rom_wf
  image_wf := by simpa using h.image_wf
  pc_fits := by rw [s.alu_pc, s.alu_cfg]; exact nextPc_fits s.cfg s.pc
  flags_fixed := by rw [s.alu_flags]; exact aluFlags_fixed ..
  latches p v hv := by rw [s.alu_events] at hv; rw [s.alu_outPort]; exact h.latches p v hv

theorem State.Inv.putRam {s : State} (h : s.Inv) {a : Nat} (ha : a < ramWords) (v : Word) : (s.putRam a v).Inv :=
  ⟨s.putRam_wf a v h.ram_wf ha, h.rom_wf, h.image_wf, h.pc_fits, h.flags_fixed, h.latches⟩

/-- An OUT sets the latch of the port whose event it appends (R32, R59). -/
theorem State.Inv.putPort {s : State} (h : s.Inv) (p : PortId) (v : Word) : (s.putPort p v).Inv := by
  refine ⟨h.ram_wf, h.rom_wf, h.image_wf, h.pc_fits, h.flags_fixed, fun q w hq => ?_⟩
  rw [s.putPort_events, lastOut_append] at hq
  by_cases hqp : q = p
  · subst hqp
    simpa [lastOut] using hq
  · rw [s.putPort_outPort_other p q v hqp]
    exact h.latches q w (by simpa [lastOut, Ne.symm hqp] using hq)

theorem State.Inv.gfxSend {s : State} (h : s.Inv) (x y c : Word) : (s.gfxSend x y c).Inv := by
  refine ⟨h.ram_wf, h.rom_wf, h.image_wf, h.pc_fits, h.flags_fixed, fun q w hq => ?_⟩
  rw [s.gfxSend_events, lastOut_append] at hq
  exact h.latches q w (by simpa [lastOut] using hq)

theorem State.Inv.memRead {s s' : State} {addr v : Word} (hs : s.Inv) (h : s.memRead addr = .ok (v, s')) : s'.Inv := by
  obtain ⟨a, ha, ⟨-, rfl⟩ | ⟨-, -, -, rfl⟩⟩ := s.memRead_cases addr v s' h
  · exact hs
  · exact (hs.putRam (ramIndex_lt _ _ a ha) v).of_same rfl

theorem State.Inv.memWrite {s s' : State} {addr v : Word} (hs : s.Inv) (h : s.memWrite addr v = .ok s') : s'.Inv := by
  obtain ⟨a, ha, rfl⟩ := s.memWrite_cases addr v s' h
  exact hs.putRam (ramIndex_lt _ _ a ha) v

theorem State.Inv.portIn {s s' : State} {n v : Word} (hs : s.Inv) (h : s.portIn n = .ok (v, s')) : s'.Inv := by
  obtain ⟨p, -, ⟨rest, -, rfl⟩ | ⟨-, -, rfl⟩⟩ := s.portIn_cases n v s' h
  · exact hs.of_same rfl
  · exact hs.of_same rfl

theorem State.Inv.portOut {s s' : State} {n v : Word} (hs : s.Inv) (h : s.portOut n v = .ok s') : s'.Inv := by
  obtain ⟨p, -, rfl⟩ := s.portOut_cases n v s' h
  exact hs.putPort p v

/-! Every instruction, every reset and every step. -/

theorem exec_keeps_inv {i : Instr} {s t : State} (hs : s.Inv) (hexec : exec i s = .next t) : t.Inv := by
  cases exec_cases i s t hexec with
  | nop h => exact h ▸ hs.advance
  | stl a h => exact h ▸ hs.stall _
  | hlt h => exact h ▸ hs.halt
  | alu op d a b h => exact h ▸ hs.alu op d a b
  | branch a _ h =>
    rcases h with rfl | rfl
    · exact hs.jump _
    · exact hs.advance
  | set d v h => exact h ▸ (hs.setReg d v).advance
  | lod d a v s' h ht => exact ht ▸ ((hs.memRead h).setReg d v).advance
  | str d a s' h ht => exact ht ▸ (hs.memWrite h).advance
  | inPort d a v s' h ht => exact ht ▸ ((hs.portIn h).setReg d v).advance
  | outPort d a s' h ht => exact ht ▸ (hs.portOut h).advance
  | gfxsp d ab h => exact h ▸ (hs.gfxSend _ _ _).advance

/-- `RESET_PC` is an instruction address, which every `PC_WIDTH` holds. -/
theorem resetPc_toNat (cfg : Config) : (BitVec.ofNat 16 cfg.resetPc.val).toNat = cfg.resetPc.val := by
  have hlt : cfg.resetPc.val < 13312 := cfg.resetPc.isLt
  rw [BitVec.toNat_ofNat, Nat.mod_eq_of_lt (by omega)]

theorem romEntries_le_pcWidth (w : PcWidth) : romEntries ≤ 2 ^ w.bits := by cases w <;> decide

theorem State.resetWith_inv (cfg : Config) {rom : Rom} {image : Ram} (hrom : Memory.wf romEntries rom = true)
    (himage : Memory.wf ramWords image = true) : (State.resetWith cfg rom image).Inv where
  ram_wf := himage
  rom_wf := hrom
  image_wf := himage
  pc_fits := by
    change (BitVec.ofNat 16 cfg.resetPc.val).toNat < 2 ^ cfg.pcWidth.bits
    rw [resetPc_toNat]
    exact Nat.lt_of_lt_of_le cfg.resetPc.isLt (romEntries_le_pcWidth _)
  flags_fixed := show 0x8000#16 &&& 0xF000#16 = 0x8000#16 by decide
  latches p v hv := nomatch hv

theorem State.Inv.restart {s : State} (h : s.Inv) : s.restart.Inv :=
  (State.resetWith_inv s.cfg h.rom_wf h.image_wf).of_same rfl

/-- Settles O2: the invariant of a reset state asks for no more than canonical images (`State.resetWith_inv`). -/
theorem invariantHoldsAtReset : Obligations.InvariantHoldsAtReset :=
  ⟨State.resetWith_inv _ (Memory.wf_nil _) (Memory.wf_nil _), fun cfg _ _ => State.resetWith_inv cfg⟩

/-- Settles O3, by the four things a step can do (`step_cases`). -/
theorem everyStepKeepsTheInvariant : Obligations.EveryStepKeepsTheInvariant := by
  intro s t hs hstep
  obtain ⟨l, rfl | ⟨-, w, i, -, -, hexec⟩ | ⟨-, rfl⟩ | rfl⟩ := step_cases s t hstep
  · exact hs.withOperator l
  · exact exec_keeps_inv (hs.withOperator l) hexec
  · exact hs.of_same rfl
  · exact (hs.withOperator l).restart

end Sys2Proof.Machine
end

section
/-! PROOF. Decoding and encoding (30_encoding.md R87 to R96). -/

namespace Sys2Proof.Machine

/-! An encoded instruction decodes to itself (R96): what each class of identifiers does with the word the encoder writes. -/

theorem decode_encodeF0_eq {I : BitVec 8} {i : Instr} (hI : decodeFields I 0 false false 0 0 = decodeF0 0 0 i) :
    decode (encodeF0 I) = .instr i := by
  rw [decode_encodeF0, hI]; rfl

theorem decode_encodeBare_eq {I : BitVec 8} {mk : Arg → Instr}
    (hI : ∀ x l, decodeFields I 1 x false 0 l = decodeBare 1 x 0 l mk) (a : Arg) :
    decode (encodeOne I 0 a) = .instr (mk a) := by
  obtain ⟨x, l, hdec, harg⟩ := decode_encodeOne I 0 a
  rw [hdec, hI, decodeBare, harg]; rfl

theorem decode_encodeOne_eq {I : BitVec 8} {d : RegId} {mk : Arg → Instr}
    (hI : ∀ x l, decodeFields I 1 x false d l = decodeOne 1 x l mk) (a : Arg) :
    decode (encodeOne I d a) = .instr (mk a) := by
  obtain ⟨x, l, hdec, harg⟩ := decode_encodeOne I d a
  rw [hdec, hI, decodeOne, harg]; rfl

theorem decode_encodeTwo_eq {I : BitVec 8} {d : RegId} {mk : Args → Instr}
    (hI : ∀ x y l, decodeFields I 2 x y d l = decodeTwo 2 x y l mk) (ab : Args) :
    decode (encodeTwo I d ab) = .instr (mk ab) := by
  obtain ⟨x, y, l, hdec, hargs⟩ := decode_encodeTwo I d ab
  rw [hdec, hI, decodeTwo, hargs]; rfl

theorem decode_encodeSet_eq {I : BitVec 8} {d : RegId} {mk : SetArgs → Instr}
    (hI : ∀ aa x y l, decodeFields I aa x y d l = decodeOneOrTwo aa x y l mk) (ab : SetArgs) :
    decode (encodeSet I d ab) = .instr (mk ab) := by
  obtain ⟨aa, x, y, l, hdec, haa, hargs⟩ := decode_encodeSet I d ab
  have hadmitted : ¬ (aa ≠ 1 ∧ aa ≠ 2) := by rcases haa with rfl | rfl <;> decide
  rw [hdec, hI, decodeOneOrTwo, if_neg hadmitted, hargs]; rfl

/-- Settles O13, by the class of each instruction's identifier; the map of identifiers is read off by `rfl`. -/
theorem encodedInstructionsDecodeToThemselves : Obligations.EncodedInstructionsDecodeToThemselves := by
  intro i ⟨hreserved, hsecond⟩
  cases i
  case nop | hlt => exact decode_encodeF0_eq rfl
  case ldi => cases hsecond
  case reserved2C | reserved2D | reserved2E | reserved3C | reserved3D | reserved3E | reserved3F | reserved4C |
      reserved4D | reserved4E | reserved5C | reserved5D | reserved5E | reserved5F => cases hreserved
  case stl | bgt | blt | bsgt | bslt | beq | bz | bneg | bpos | bev | bbev | bc | bof | brn | ble | bge | bsle | bsge |
      bneq | bnz | bposz | bnegz | bod | bbod | bnc | bnof =>
    exact decode_encodeBare_eq (fun _ _ => rfl) _
  case pass | not | mov | lod | str | inPort | outPort => exact decode_encodeOne_eq (fun _ _ => rfl) _
  case add | sub | rshift | lshift | mul | smul | umul | sumul | and | or | xor | nand | nor | xnor | gfxsp =>
    exact decode_encodeTwo_eq (fun _ _ _ => rfl) _
  case sgt | slt | ssgt | sslt | seq | sz | sneg | spos | sev | sbev | sc | sof | sle | sge | ssle | ssge | sneq | snz |
      sposz | snegz | sod | sbod | snc | snof =>
    exact decode_encodeSet_eq (fun _ _ _ _ => rfl) _

end Sys2Proof.Machine
end

section
/-! PROOF. What decoding makes of every word: the checks of R94 in their order (30_encoding.md R87 to R94, decisions D6 to D9). -/

namespace Sys2Proof.Machine

/-! The fields of a word as numbers. -/

theorem fieldI_eq_ofNat (w : InstrWord) : fieldI w = BitVec.ofNat 8 (w >>> 24).toNat := by
  rw [toNat_shiftRight_24, BitVec.ofNat_toNat, BitVec.setWidth_eq]

theorem fieldAA_toNat (w : InstrWord) : (fieldAA w).toNat = (w >>> 22).toNat % 4 := by
  simp [fieldAA, BitVec.extractLsb'_toNat]

theorem fieldD_toNat (w : InstrWord) : (fieldD w).toNat = (w >>> 16).toNat % 16 := by
  simp [fieldD, BitVec.extractLsb'_toNat]

/-! The identifier map (R90), one lemma per class of identifiers: how the identifier decodes, and how its instructions are
encoded. -/

theorem decodeFields_noArg {n : Nat} (hn : n ∈ noArgIds) : ∃ i : Instr,
    (∀ aa x y d l, decodeFields (BitVec.ofNat 8 n) aa x y d l = decodeF0 aa d i) ∧ i.WellFormed ∧
      encode i = encodeF0 (BitVec.ofNat 8 n) := by
  fin_cases hn <;> exact ⟨_, fun _ _ _ _ _ => rfl, ⟨rfl, rfl⟩, rfl⟩

/-- The identifiers with one argument and no destination. -/
def bareArgIds : List Nat := oneArgIds.filter (· ∈ bareIds)

/-- The identifiers with one argument and a destination. -/
def destArgIds : List Nat := oneArgIds.filter (· ∉ bareIds)

theorem decodeFields_bareArg {n : Nat} (hn : n ∈ bareArgIds) : ∃ mk : Arg → Instr,
    (∀ aa x y d l, decodeFields (BitVec.ofNat 8 n) aa x y d l = decodeBare aa x d l mk) ∧ (∀ a, (mk a).WellFormed) ∧
      ∀ a, encode (mk a) = encodeOne (BitVec.ofNat 8 n) 0 a := by
  fin_cases hn <;> exact ⟨_, fun _ _ _ _ _ => rfl, fun _ => ⟨rfl, rfl⟩, fun _ => rfl⟩

theorem decodeFields_destArg {n : Nat} (hn : n ∈ destArgIds) (d : RegId) : ∃ mk : Arg → Instr,
    (∀ aa x y l, decodeFields (BitVec.ofNat 8 n) aa x y d l = decodeOne aa x l mk) ∧ (∀ a, (mk a).WellFormed) ∧
      ∀ a, encode (mk a) = encodeOne (BitVec.ofNat 8 n) d a := by
  fin_cases hn <;> exact ⟨_, fun _ _ _ _ => rfl, fun _ => ⟨rfl, rfl⟩, fun _ => rfl⟩

theorem decodeFields_twoArg {n : Nat} (hn : n ∈ twoArgIds) (d : RegId) : ∃ mk : Args → Instr,
    (∀ aa x y l, decodeFields (BitVec.ofNat 8 n) aa x y d l = decodeTwo aa x y l mk) ∧ (∀ ab, (mk ab).WellFormed) ∧
      ∀ ab, encode (mk ab) = encodeTwo (BitVec.ofNat 8 n) d ab := by
  fin_cases hn <;> exact ⟨_, fun _ _ _ _ => rfl, fun _ => ⟨rfl, rfl⟩, fun _ => rfl⟩

theorem decodeFields_oneOrTwoArg {n : Nat} (hn : n ∈ oneOrTwoArgIds) (d : RegId) : ∃ mk : SetArgs → Instr,
    (∀ aa x y l, decodeFields (BitVec.ofNat 8 n) aa x y d l = decodeOneOrTwo aa x y l mk) ∧ (∀ ab, (mk ab).WellFormed) ∧
      ∀ ab, encode (mk ab) = encodeSet (BitVec.ofNat 8 n) d ab := by
  fin_cases hn <;> exact ⟨_, fun _ _ _ _ => rfl, fun _ => ⟨rfl, rfl⟩, fun _ => rfl⟩

/-- A Reserved row keeps the 24 bits below the identifier (R91). -/
theorem decodeFields_reservedRow {n : Nat} (hn : n ∈ reservedIds) (aa : BitVec 2) (x y : Bool) (d : RegId)
    (l : BitVec 16) : ∃ i, decodeFields (BitVec.ofNat 8 n) aa x y d l = .instr i ∧ i.isReserved = true ∧
      encode i = BitVec.ofNat 8 n ++ (aa ++ BitVec.ofBool x ++ BitVec.ofBool y ++ d ++ l) := by
  fin_cases hn <;> exact ⟨_, rfl, rfl, rfl⟩

theorem decodeFields_unlisted {I : BitVec 8} (hI : I.toNat ∉ reservedIds ∧ admittedCounts I.toNat = [])
    (aa : BitVec 2) (x y : Bool) (d : RegId) (l : BitVec 16) :
    decodeFields I aa x y d l = .illegal .unlistedIdentifier := by
  unfold decodeFields
  split
  on_goal -1 => rfl
  all_goals exact absurd hI (by decide)

/-! The padding check (R87). -/

theorem extractLsb'_eq_zero_iff (l : BitVec 16) (start len : Nat) :
    l.extractLsb' start len = 0#len ↔ l.toNat / 2 ^ start % 2 ^ len = 0 := by
  rw [← BitVec.toNat_inj, BitVec.extractLsb'_toNat, Nat.shiftRight_eq_div_pow, BitVec.toNat_ofNat, Nat.zero_mod]

theorem decodeArg_eq_none (x : Bool) (l : BitVec 16) : decodeArg x l = none ↔ x = true ∧ l.toNat / 16 ≠ 0 := by
  have hpad : l.extractLsb' 4 12 = 0#12 ↔ l.toNat / 16 = 0 := by
    rw [extractLsb'_eq_zero_iff]; omega
  cases x <;> simp only [decodeArg, BitVec.ofNat_eq_ofNat, hpad] <;> simp

theorem decodeArgs_eq_none (x y : Bool) (l : BitVec 16) :
    decodeArgs x y l = none ↔ x = true ∧ y = true ∧ (l.toNat / 4096 ≠ 0 ∨ l.toNat % 256 / 16 ≠ 0) := by
  have hhigh : l.extractLsb' 12 4 = 0#4 ↔ l.toNat / 4096 = 0 := by
    rw [extractLsb'_eq_zero_iff]; omega
  have hlow : l.extractLsb' 4 4 = 0#4 ↔ l.toNat % 256 / 16 = 0 := by
    rw [extractLsb'_eq_zero_iff]; omega
  cases x <;> cases y <;> simp only [decodeArgs, BitVec.ofNat_eq_ofNat, hhigh, hlow] <;> simp
  omega

theorem fieldLower_toNat (w : InstrWord) : (fieldLower w).toNat = w.toNat % 65536 := by
  simp [fieldLower, BitVec.extractLsb'_toNat]

/-- A word is padded exactly where no operand form of its argument count fits (R94, step 6). -/
theorem padded_iff (w : InstrWord) : Padded w ↔
    (fieldAA w = 1 ∧ decodeArg (fieldX w) (fieldLower w) = none) ∨
    (fieldAA w = 2 ∧ decodeArgs (fieldX w) (fieldY w) (fieldLower w) = none) := by
  have hlow : w.toNat % 65536 % 256 = w.toNat % 256 := by omega
  rw [decodeArg_eq_none, decodeArgs_eq_none, fieldLower_toNat, hlow, ← BitVec.toNat_inj, ← BitVec.toNat_inj,
    fieldAA_toNat]
  rfl

/-! The canonical word by the argument count (R88, R96). -/

theorem canonicalWord_of_noArg {w : InstrWord} (h : fieldAA w = 0) :
    canonicalWord w = packFields (fieldI w) 0 false false (fieldD w) 0 := by
  conv_lhs => rw [← packFields_fields w, canonicalWord_packFields, h]
  rfl

theorem canonicalWord_of_oneArg {w : InstrWord} (h : fieldAA w = 1) :
    canonicalWord w = packFields (fieldI w) 1 (fieldX w) false (fieldD w) (fieldLower w) := by
  conv_lhs => rw [← packFields_fields w, canonicalWord_packFields, h]
  rfl

theorem canonicalWord_of_twoArgs {w : InstrWord} (h : fieldAA w = 2) :
    canonicalWord w = packFields (fieldI w) 2 (fieldX w) (fieldY w) (fieldD w) (fieldLower w) := by
  conv_lhs => rw [← packFields_fields w, canonicalWord_packFields, h]
  rfl

/-! The checks of a named identifier (R94, steps 3 to 7). -/

/-- What the checks from the padding on leave of a word. -/
def FormChecks (w : InstrWord) (r : Decoded) : Prop :=
  (Padded w → r = .illegal .padding) ∧
  (¬ Padded w → ∃ i, r = .instr i ∧ i.WellFormed ∧ encode i = canonicalWord w)

/-- What the checks from the argument count on leave of a word. -/
def NamedChecks (w : InstrWord) (r : Decoded) : Prop :=
  if (w >>> 22).toNat % 4 ∉ admittedCounts (w >>> 24).toNat then r = .illegal .argumentCount
  else if (w >>> 24).toNat ∈ bareIds ∧ (w >>> 16).toNat % 16 ≠ 0 then r = .illegal .destination
  else FormChecks w r

theorem namedChecks_of {w : InstrWord} {r : Decoded}
    (hcount : (fieldAA w).toNat ∉ admittedCounts (w >>> 24).toNat → r = .illegal .argumentCount)
    (hdest : (fieldAA w).toNat ∈ admittedCounts (w >>> 24).toNat → (w >>> 24).toNat ∈ bareIds → fieldD w ≠ 0 →
      r = .illegal .destination)
    (hform : (fieldAA w).toNat ∈ admittedCounts (w >>> 24).toNat → ((w >>> 24).toNat ∈ bareIds → fieldD w = 0) →
      FormChecks w r) : NamedChecks w r := by
  have hd : (fieldD w).toNat = 0 ↔ fieldD w = 0 := by rw [← BitVec.toNat_inj]; rfl
  unfold NamedChecks
  rw [← fieldAA_toNat, ← fieldD_toNat]
  split
  case isTrue h => exact hcount h
  case isFalse h =>
    split
    case isTrue hbare => exact hdest (not_not.mp h) hbare.1 fun hzero => hbare.2 (hd.mpr hzero)
    case isFalse hbare => exact hform (not_not.mp h) fun hb => hd.mp (not_not.mp fun hne => hbare ⟨hb, hne⟩)

theorem formChecks_orPadding {β : Type} {w : InstrWord} {form : Option β} {mk : β → Instr}
    (hpad : Padded w ↔ form = none) (hwf : ∀ b, (mk b).WellFormed)
    (henc : ∀ b, form = some b → encode (mk b) = canonicalWord w) : FormChecks w (orPadding (form.map mk)) := by
  refine ⟨fun h => by rw [hpad.mp h]; rfl, fun h => ?_⟩
  obtain ⟨b, hb⟩ := Option.ne_none_iff_exists'.mp fun hnone => h (hpad.mpr hnone)
  exact ⟨mk b, by rw [hb]; rfl, hwf b, henc b hb⟩

theorem formChecks_arg {w : InstrWord} (haa : fieldAA w = 1) {mk : Arg → Instr} (hwf : ∀ a, (mk a).WellFormed)
    (henc : ∀ a, encode (mk a) = encodeOne (fieldI w) (fieldD w) a) :
    FormChecks w (orPadding ((decodeArg (fieldX w) (fieldLower w)).map mk)) := by
  refine formChecks_orPadding (by simp [padded_iff, haa]) hwf fun a ha => ?_
  rw [henc, encodeOne_of_decodeArg ha, canonicalWord_of_oneArg haa]

theorem formChecks_args {w : InstrWord} (haa : fieldAA w = 2) {mk : Args → Instr} (hwf : ∀ ab, (mk ab).WellFormed)
    (henc : ∀ ab, encode (mk ab) = encodeTwo (fieldI w) (fieldD w) ab) :
    FormChecks w (orPadding ((decodeArgs (fieldX w) (fieldY w) (fieldLower w)).map mk)) := by
  refine formChecks_orPadding (by simp [padded_iff, haa]) hwf fun ab hab => ?_
  rw [henc, encodeTwo_of_decodeArgs hab, canonicalWord_of_twoArgs haa]

/-! Each class of named identifiers makes these checks. -/

theorem noArgIds_class : ∀ n ∈ noArgIds, admittedCounts n = [0] ∧ n ∈ bareIds := by decide
theorem bareArgIds_class : ∀ n ∈ bareArgIds, admittedCounts n = [1] ∧ n ∈ bareIds := by decide
theorem destArgIds_class : ∀ n ∈ destArgIds, admittedCounts n = [1] ∧ n ∉ bareIds := by decide
theorem twoArgIds_class : ∀ n ∈ twoArgIds, admittedCounts n = [2] ∧ n ∉ bareIds := by decide
theorem oneOrTwoArgIds_class : ∀ n ∈ oneOrTwoArgIds, admittedCounts n = [1, 2] ∧ n ∉ bareIds := by decide

theorem toNat_mem_zero (aa : BitVec 2) : aa.toNat ∈ [0] ↔ aa = 0 := by revert aa; decide
theorem toNat_mem_one (aa : BitVec 2) : aa.toNat ∈ [1] ↔ aa = 1 := by revert aa; decide
theorem toNat_mem_two (aa : BitVec 2) : aa.toNat ∈ [2] ↔ aa = 2 := by revert aa; decide
theorem toNat_mem_oneOrTwo (aa : BitVec 2) : aa.toNat ∈ [1, 2] ↔ aa = 1 ∨ aa = 2 := by revert aa; decide

theorem decode_eq_decodeFields (w : InstrWord) : decode w = decodeFields (BitVec.ofNat 8 (w >>> 24).toNat) (fieldAA w)
    (fieldX w) (fieldY w) (fieldD w) (fieldLower w) := by
  rw [← fieldI_eq_ofNat]; rfl

theorem namedChecks_noArg {w : InstrWord} (hn : (w >>> 24).toNat ∈ noArgIds) : NamedChecks w (decode w) := by
  obtain ⟨i, hdec, hwf, henc⟩ := decodeFields_noArg hn
  obtain ⟨hcounts, hbare⟩ := noArgIds_class _ hn
  rw [decode_eq_decodeFields, hdec, decodeF0]
  apply namedChecks_of <;> rw [hcounts, toNat_mem_zero]
  · exact fun haa => if_pos haa
  · exact fun haa _ hd => by rw [if_neg (not_not.mpr haa), if_pos hd]
  · intro haa hd
    rw [if_neg (not_not.mpr haa), if_neg (not_not.mpr (hd hbare))]
    refine ⟨fun hpad => ?_, fun _ => ⟨i, rfl, hwf, ?_⟩⟩
    · simp [padded_iff, haa] at hpad
    · rw [henc, ← fieldI_eq_ofNat, canonicalWord_of_noArg haa, hd hbare, encodeF0]

theorem namedChecks_bareArg {w : InstrWord} (hn : (w >>> 24).toNat ∈ bareArgIds) : NamedChecks w (decode w) := by
  obtain ⟨mk, hdec, hwf, henc⟩ := decodeFields_bareArg hn
  obtain ⟨hcounts, hbare⟩ := bareArgIds_class _ hn
  rw [decode_eq_decodeFields, hdec, decodeBare]
  apply namedChecks_of <;> rw [hcounts, toNat_mem_one]
  · exact fun haa => if_pos haa
  · exact fun haa _ hd => by rw [if_neg (not_not.mpr haa), if_pos hd]
  · intro haa hd
    rw [if_neg (not_not.mpr haa), if_neg (not_not.mpr (hd hbare))]
    exact formChecks_arg haa hwf fun a => by rw [henc, hd hbare, fieldI_eq_ofNat]

theorem namedChecks_destArg {w : InstrWord} (hn : (w >>> 24).toNat ∈ destArgIds) : NamedChecks w (decode w) := by
  obtain ⟨mk, hdec, hwf, henc⟩ := decodeFields_destArg hn (fieldD w)
  obtain ⟨hcounts, hbare⟩ := destArgIds_class _ hn
  rw [decode_eq_decodeFields, hdec, decodeOne]
  apply namedChecks_of <;> rw [hcounts, toNat_mem_one]
  · exact fun haa => if_pos haa
  · exact fun _ hb => absurd hb hbare
  · intro haa _
    rw [if_neg (not_not.mpr haa)]
    exact formChecks_arg haa hwf fun a => by rw [henc, fieldI_eq_ofNat]

theorem namedChecks_twoArg {w : InstrWord} (hn : (w >>> 24).toNat ∈ twoArgIds) : NamedChecks w (decode w) := by
  obtain ⟨mk, hdec, hwf, henc⟩ := decodeFields_twoArg hn (fieldD w)
  obtain ⟨hcounts, hbare⟩ := twoArgIds_class _ hn
  rw [decode_eq_decodeFields, hdec, decodeTwo]
  apply namedChecks_of <;> rw [hcounts, toNat_mem_two]
  · exact fun haa => if_pos haa
  · exact fun _ hb => absurd hb hbare
  · intro haa _
    rw [if_neg (not_not.mpr haa)]
    exact formChecks_args haa hwf fun ab => by rw [henc, fieldI_eq_ofNat]

theorem namedChecks_oneOrTwoArg {w : InstrWord} (hn : (w >>> 24).toNat ∈ oneOrTwoArgIds) :
    NamedChecks w (decode w) := by
  obtain ⟨mk, hdec, hwf, henc⟩ := decodeFields_oneOrTwoArg hn (fieldD w)
  obtain ⟨hcounts, hbare⟩ := oneOrTwoArgIds_class _ hn
  rw [decode_eq_decodeFields, hdec, decodeOneOrTwo]
  apply namedChecks_of <;> rw [hcounts, toNat_mem_oneOrTwo]
  · exact fun haa => if_pos (not_or.mp haa)
  · exact fun _ hb => absurd hb hbare
  · intro haa _
    rw [if_neg fun hne => haa.elim hne.1 hne.2, decodeSetArgs]
    rcases haa with haa | haa
    · rw [if_pos haa, Option.map_map]
      exact formChecks_arg haa (fun a => hwf _) fun a => by rw [Function.comp, henc, fieldI_eq_ofNat]; rfl
    · rw [if_neg (by rw [haa]; decide), Option.map_map]
      exact formChecks_args haa (fun ab => hwf _) fun ab => by rw [Function.comp, henc, fieldI_eq_ofNat]; rfl

/-- Every identifier that admits an argument count is of one of the five classes. -/
theorem decode_named {w : InstrWord} (h : admittedCounts (w >>> 24).toNat ≠ []) : NamedChecks w (decode w) := by
  have hone : (w >>> 24).toNat ∈ oneArgIds → (w >>> 24).toNat ∈ bareArgIds ∨ (w >>> 24).toNat ∈ destArgIds := by
    simp only [bareArgIds, destArgIds, List.mem_filter, decide_eq_true_eq]; tauto
  unfold admittedCounts at h
  split_ifs at h with h0 h1 h2 h12
  · exact namedChecks_noArg h0
  · exact (hone h1).elim namedChecks_bareArg namedChecks_destArg
  · exact namedChecks_twoArg h2
  · exact namedChecks_oneOrTwoArg h12
  · exact absurd rfl h

end Sys2Proof.Machine
end

section
/-! PROOF. The statements about decoding (30_encoding.md R87 to R97). -/

namespace Sys2Proof.Machine

/-- A word is its identifier and the 24 bits below it (R81). -/
theorem identifier_append_rest (w : InstrWord) : fieldI w ++
    (fieldAA w ++ BitVec.ofBool (fieldX w) ++ BitVec.ofBool (fieldY w) ++ fieldD w ++ fieldLower w) = w := by
  conv_rhs => rw [← packFields_fields w]
  apply BitVec.eq_of_getLsbD_eq
  intro k hk
  simp only [packFields, BitVec.getLsbD_append]
  grind

/-- A Reserved word is kept whole (R91). -/
theorem decode_reservedRow {w : InstrWord} (h : (w >>> 24).toNat ∈ reservedIds) :
    ∃ i, decode w = .instr i ∧ i.isReserved = true ∧ encode i = w := by
  obtain ⟨i, hdec, hres, henc⟩ :=
    decodeFields_reservedRow h (fieldAA w) (fieldX w) (fieldY w) (fieldD w) (fieldLower w)
  rw [← fieldI_eq_ofNat] at hdec henc
  exact ⟨i, hdec, hres, henc.trans (identifier_append_rest w)⟩

theorem decode_unlisted {w : InstrWord} (hres : (w >>> 24).toNat ∉ reservedIds)
    (hcounts : admittedCounts (w >>> 24).toNat = []) : decode w = .illegal .unlistedIdentifier := by
  rw [toNat_shiftRight_24] at hres hcounts
  exact decodeFields_unlisted ⟨hres, hcounts⟩ _ _ _ _ _

/-- The word of a named identifier that decodes to an instruction passes every check. -/
theorem encode_of_namedChecks {w : InstrWord} {i : Instr} (hw : NamedChecks w (.instr i)) :
    i.WellFormed ∧ encode i = canonicalWord w := by
  unfold NamedChecks FormChecks at hw
  split_ifs at hw
  obtain ⟨hpadded, hform⟩ := hw
  obtain ⟨j, hj, hwf, henc⟩ := hform fun hp => nomatch hpadded hp
  cases hj
  exact ⟨hwf, henc⟩

/-- Settles O14, by the three kinds of identifiers: a Reserved word is kept whole, an unlisted one decodes to nothing, and
for the others see `decode_named`. -/
theorem decodedWordsAreCanonicalUpToIgnoredBits : Obligations.DecodedWordsAreCanonicalUpToIgnoredBits := by
  intro w i hdec
  by_cases hres : (w >>> 24).toNat ∈ reservedIds
  · obtain ⟨j, hj, hjres, henc⟩ := decode_reservedRow hres
    rw [hdec] at hj
    cases hj
    exact ⟨fun h => absurd (hjres.symm.trans h) (by decide), fun _ => henc⟩
  by_cases hcounts : admittedCounts (w >>> 24).toNat = []
  · rw [decode_unlisted hres hcounts] at hdec
    cases hdec
  · obtain ⟨⟨hnotres, -⟩, henc⟩ := encode_of_namedChecks (hdec ▸ decode_named hcounts)
    exact ⟨fun _ => henc, fun h => absurd (hnotres.symm.trans h) (by decide)⟩

/-- Settles O11: the listed ranges hold no Reserved identifier and none with an argument count. -/
theorem unlistedIdentifiersAreRefused : Obligations.UnlistedIdentifiersAreRefused := by
  intro w I hI
  have hlt : I < 256 := (toNat_shiftRight_24 w).trans_lt (fieldI w).isLt
  apply decode_unlisted
  · change I ∉ reservedIds
    simp only [reservedIds, List.mem_cons, List.not_mem_nil, or_false]
    omega
  · change admittedCounts I = []
    simp only [admittedCounts, noArgIds, oneArgIds, twoArgIds, oneOrTwoArgIds, List.mem_cons, List.not_mem_nil, or_false]
    repeat rw [if_neg (by omega)]

theorem decodeOne_eq_instr {aa : BitVec 2} {x : Bool} {l : BitVec 16} {mk : Arg → Instr} {i : Instr}
    (h : decodeOne aa x l mk = .instr i) : ∃ a, i = mk a := by
  unfold decodeOne at h
  split_ifs at h
  obtain ⟨a, -, ha⟩ := Option.map_eq_some_iff.mp (orPadding_eq h)
  exact ⟨a, ha.symm⟩

/-- Identifier 0x4F decodes to MOV, never to LDI (R94, R224). -/
theorem decode_mov {w : InstrWord} {i : Instr} (hI : (w >>> 24).toNat = 0x4F) (hdec : decode w = .instr i) :
    ∃ d a, i = .mov d a := by
  rw [decode_eq_decodeFields, hI] at hdec
  exact ⟨fieldD w, decodeOne_eq_instr hdec⟩

/-- Settles O12: `decode_reserved` and `decode_unlisted` for the first two checks, `decode_named` for the others. -/
theorem decodingMakesItsChecksInOrder : Obligations.DecodingMakesItsChecksInOrder := by
  intro w
  dsimp only
  by_cases hres : (w >>> 24).toNat ∈ reservedIds
  · rw [if_pos hres]; exact decode_reserved hres
  rw [if_neg hres]
  by_cases hcounts : admittedCounts (w >>> 24).toNat = []
  · rw [if_pos hcounts]; exact decode_unlisted hres hcounts
  rw [if_neg hcounts]
  have hnamed := decode_named hcounts
  unfold NamedChecks at hnamed
  split at hnamed
  case isTrue hcount => rwa [if_pos hcount]
  rename_i hcount
  rw [if_neg hcount]
  split at hnamed
  case isTrue hdest => rwa [if_pos hdest]
  rename_i hdest
  rw [if_neg hdest]
  obtain ⟨hpadded, hform⟩ := hnamed
  refine ⟨hpadded, fun hp => ?_⟩
  obtain ⟨i, hdec, hwf, henc⟩ := hform hp
  exact ⟨i, hdec, hwf, henc, fun hI => decode_mov hI hdec⟩

/-- Settles O15: LDI and MOV have one word and one effect by their definitions, and the word decodes by O13. -/
theorem ldiIsAnotherNameOfMov : Obligations.LdiIsAnotherNameOfMov :=
  fun d a => ⟨rfl, encodedInstructionsDecodeToThemselves (.mov d a) ⟨rfl, rfl⟩, fun _ => rfl⟩

/-- Settles O16, by evaluation of the nine words. -/
theorem sampleWordsDecode : Obligations.SampleWordsDecode := by
  unfold Obligations.SampleWordsDecode; decide

end Sys2Proof.Machine
end

section
/-! PROOF. Reset, the operator and one step (10_state.md R33 to R38, 20_memory.md R57, 60_exceptions.md R303 to R309,
70_reset_and_hazards.md R330 to R337). -/

namespace Sys2Proof.Machine

/-! What a step does with the head of the operator's list. -/

theorem step_of_noAction {s : State} (h : s.operator = []) : step s = s.runCpu := by
  rw [step, h]

theorem step_of_idle {s : State} {rest : List OperatorAction} (h : s.operator = .idle :: rest) :
    step s = { s with operator := rest }.runCpu := by
  rw [step, h]

theorem step_of_action {s : State} {action : OperatorAction} {rest : List OperatorAction}
    (h : s.operator = action :: rest) (hne : action ≠ .idle) :
    step s = .next ({ s with operator := rest }.operate action) := by
  cases action
  case idle => exact absurd rfl hne
  all_goals rw [step, h]

/-- A CPU that is not running executes nothing (R33). -/
theorem State.runCpu_of_notRunning {s : State} (h : s.runState ≠ .running) : s.runCpu = .next s := by
  unfold State.runCpu
  cases hr : s.runState
  case running => exact absurd hr h
  all_goals rfl

/-- An action other than the reset, but for Button 2 on a CPU that has not started, does nothing (R33, R337). -/
theorem State.operate_of_noEffect {s : State} {action : OperatorAction} (hreset : action ≠ .reset)
    (hstart : action = .button2 → s.runState ≠ .notStarted) : s.operate action = s := by
  obtain ⟨-, h⟩ | ⟨hb, hr, -⟩ | ⟨hres, -⟩ := s.operate_cases action
  · exact h
  · exact absurd hr (hstart hb)
  · exact absurd hres hreset

/-- With the CPU not running, a step without a reset and without a start only uses up an action. -/
theorem step_of_notRunning {s : State} {action : OperatorAction} {rest : List OperatorAction}
    (hrun : s.runState ≠ .running) (hop : s.operator = action :: rest) (hreset : action ≠ .reset)
    (hstart : action = .button2 → s.runState ≠ .notStarted) : step s = .next { s with operator := rest } := by
  by_cases hidle : action = .idle
  · rw [step_of_idle (hidle ▸ hop)]
    exact State.runCpu_of_notRunning (s := { s with operator := rest }) hrun
  · rw [step_of_action hop hidle]
    exact congrArg _ (State.operate_of_noEffect (s := { s with operator := rest }) hreset hstart)

theorem step_reset {s : State} {rest : List OperatorAction} (h : s.operator = .reset :: rest) :
    step s = .next ({ s with operator := rest } : State).restart :=
  step_of_action h (by decide)

/-! The statements. -/

/-- Settles O1: each field of the reset state by its definition; `RESET_PC` fits 16 bits (`resetPc_toNat`). -/
theorem resetLeavesTheStartState : Obligations.ResetLeavesTheStartState :=
  ⟨rfl, rfl, fun cfg _ _ => ⟨rfl, resetPc_toNat cfg, rfl, rfl, fun _ => rfl, rfl, rfl, rfl⟩⟩

/-- Settles O4: Button 2 starts the CPU; for every other action see `step_of_notRunning`. -/
theorem onlyButtonTwoStartsTheCpu : Obligations.OnlyButtonTwoStartsTheCpu := by
  intro s hs
  have hrun : s.runState ≠ .running := by rw [hs]; decide
  refine ⟨fun hop => ?_, fun action rest hop hreset => ?_⟩
  · rw [step_of_noAction hop, State.runCpu_of_notRunning hrun]
  · by_cases hb : action = .button2
    · subst hb
      rw [step_of_action hop (by decide), State.operate, hs, if_pos rfl]
    · rw [step_of_notRunning hrun hop hreset fun h => absurd h hb, if_neg hb, ← hs]

/-- Settles O5, by the head of the operator's list. -/
theorem haltedIsLeftOnlyByReset : Obligations.HaltedIsLeftOnlyByReset := by
  intro s hs
  have hrun : s.runState ≠ .running := by rw [hs]; decide
  cases hop : s.operator with
  | nil =>
    refine ⟨s, ?_, .inl ⟨by rw [List.tail_nil, ← hop], by simp⟩⟩
    rw [step_of_noAction hop, State.runCpu_of_notRunning hrun]
  | cons action rest =>
    by_cases hreset : action = .reset
    · subst hreset
      exact ⟨_, step_reset hop, .inr ⟨rfl, rfl⟩⟩
    · refine ⟨_, step_of_notRunning hrun hop hreset fun _ => by rw [hs]; decide, .inl ⟨rfl, ?_⟩⟩
      simpa using hreset

/-- Settles O6: a button is an action without effect on a running CPU. -/
theorem buttonsLeaveARunningCpuAlone : Obligations.ButtonsLeaveARunningCpuAlone := by
  intro s action rest hrun hop hbutton
  have hbuttons : ∀ b ∈ [OperatorAction.button1, .button2, .button3], b ≠ .idle ∧ b ≠ .reset := by decide
  obtain ⟨hidle, hreset⟩ := hbuttons action hbutton
  rw [step_of_action hop hidle]
  exact congrArg _ (State.operate_of_noEffect (s := { s with operator := rest }) hreset fun _ => by rw [hrun]; decide)

/-- Settles O7: the step is `State.restart`, whose fields are those of the reset state. -/
theorem resetEventRestoresTheStartState : Obligations.ResetEventRestoresTheStartState := by
  intro s rest hop
  exact ⟨_, step_reset hop, rfl, resetPc_toNat s.cfg, fun _ => rfl, rfl, rfl, rfl, rfl, rfl, fun _ => rfl, rfl,
    fun _ => rfl, rfl, rfl⟩

/-- Settles O8: the step is one instruction (`step_eq_runInstruction`), the one the fetched word decodes to. -/
theorem stepRunsTheDecodedInstruction : Obligations.StepRunsTheDecodedInstruction := by
  intro s w i hcpu hpc hrom hdec
  have hfetch : (afterIdle s).fetch = some w := (State.fetch_eq_some _ w).mpr ⟨hpc, hrom⟩
  rw [step_eq_runInstruction hcpu, State.runInstruction_eq_exec hfetch hdec]

/-- A step without an entry to fetch is the fault of R305. -/
theorem step_of_noEntry {s : State} (hcpu : CpuRuns s)
    (h : romEntries ≤ s.pc.toNat ∨ Memory.read s.rom s.pc.toNat = none) : step s = .fault (.fetchOutOfRange s.pc) := by
  have hfetch : (afterIdle s).fetch = none := by
    rw [Option.eq_none_iff_forall_ne_some]
    intro w hw
    obtain ⟨hlt, hread⟩ := (State.fetch_eq_some _ w).mp hw
    rcases h with hge | hnone
    · exact absurd hlt (Nat.not_lt.mpr hge)
    · exact nomatch hnone.symm.trans hread
  rw [step_eq_runInstruction hcpu, State.runInstruction, hfetch]
  rfl

/-- Settles O9, by the three reasons of R309 in their order. -/
theorem fetchAndDecodeFaultsAreReported : Obligations.FetchAndDecodeFaultsAreReported := by
  intro s hcpu
  refine ⟨fun hpc => step_of_noEntry hcpu (.inl hpc), fun hrom => step_of_noEntry hcpu (.inr hrom),
    fun w reason hpc hrom hdec => ?_⟩
  have hfetch : (afterIdle s).fetch = some w := (State.fetch_eq_some _ w).mpr ⟨hpc, hrom⟩
  simp only [step_eq_runInstruction hcpu, State.runInstruction, hfetch, hdec]

end Sys2Proof.Machine
end

section
/-! PROOF. Operand values, and what the ends of the instructions leave unchanged (30_encoding.md R85, R86; 40_control.md). -/

namespace Sys2Proof.Machine

/-! The widening of short immediates (R86). -/

theorem ext16_toNat_of_zero {cfg : Config} (h : cfg.immExt = .zero) {n : Nat} (hn : n ≤ 16) (v : BitVec n) :
    (ext16 cfg v).toNat = v.toNat := by
  rw [ext16, h]
  exact BitVec.toNat_setWidth_of_le hn

theorem ext16_toInt_of_sign {cfg : Config} (h : cfg.immExt = .sign) {n : Nat} (hn : n ≤ 16) (v : BitVec n) :
    (ext16 cfg v).toInt = v.toInt := by
  rw [ext16, h]
  exact BitVec.toInt_signExtend_of_le hn

/-- Settles O17: the operand forms by their definitions, the short immediates by their two widenings. -/
theorem operandValuesAreWidened : Obligations.OperandValuesAreWidened := by
  refine fun s => ⟨fun _ => rfl, fun _ => rfl, fun _ _ => rfl, fun _ _ => rfl, fun _ _ => ⟨rfl, rfl⟩, fun h => ?_,
    fun h => ?_, fun _ => ⟨rfl, rfl⟩, fun _ => ⟨rfl, rfl⟩⟩
  · have hwiden : ∀ {n : Nat} (v : BitVec n), n ≤ 16 → (ext16 s.cfg v).toNat = v.toNat :=
      fun v hn => ext16_toNat_of_zero h hn v
    exact ⟨fun a b => ⟨hwiden a (by decide), hwiden b (by decide)⟩, fun _ b => hwiden b (by decide),
      fun a _ => hwiden a (by decide)⟩
  · have hwiden : ∀ {n : Nat} (v : BitVec n), n ≤ 16 → (ext16 s.cfg v).toInt = v.toInt :=
      fun v hn => ext16_toInt_of_sign h hn v
    exact ⟨fun a b => ⟨hwiden a (by decide), hwiden b (by decide)⟩, fun _ b => hwiden b (by decide),
      fun a _ => hwiden a (by decide)⟩

/-! What changes nothing but `pc`, the clock and the run state. -/

/-- What the statements say an instruction leaves unchanged that changes only `pc`, the clock or the run state. -/
def SameButPc (s t : State) : Prop :=
  SameRegs s t ∧ t.flags = s.flags ∧ SameRam s t ∧ SameOutputs s t ∧ SameFixed s t ∧ SameSupply s t

theorem sameButPc_of_eq {s t : State} (h : t = { s with pc := t.pc, clocks := t.clocks, runState := t.runState }) :
    SameButPc s t := by
  rw [h]
  exact ⟨fun _ => rfl, rfl, fun _ => rfl, ⟨fun _ => rfl, rfl⟩, ⟨rfl, rfl, rfl, rfl⟩, rfl, rfl⟩

theorem State.advance_sameButPc (s : State) : SameButPc s s.advance := sameButPc_of_eq rfl
theorem State.jump_sameButPc (s : State) (a : Word) : SameButPc s (s.jump a) := sameButPc_of_eq rfl

theorem State.advance_nextInSequence (s : State) : NextInSequence s s.advance := ⟨nextPc_toNat _ _, rfl, rfl⟩
theorem State.jump_branchesTo (s : State) (a : Word) : BranchesTo a s (s.jump a) := ⟨truncPc_toNat _ _, rfl, rfl⟩

/-! What writes one register and ends at the next instruction. -/

/-- The end of an instruction that writes `v` to `x[d]`: nothing else changes but `pc` and the clock. -/
theorem State.setReg_advance_effect (s : State) (d : RegId) (v : Word) :
    Holds d v (s.setReg d v).advance ∧ SameRegsBut d s (s.setReg d v).advance ∧
    (s.setReg d v).advance.flags = s.flags ∧ SameRam s (s.setReg d v).advance ∧
    SameOutputs s (s.setReg d v).advance ∧ SameFixed s (s.setReg d v).advance ∧
    SameSupply s (s.setReg d v).advance ∧ NextInSequence s (s.setReg d v).advance :=
  ⟨s.setReg_reg_same d v, s.setReg_sameRegsBut d v, by simp, fun _ => by simp, ⟨fun _ => by simp, by simp⟩,
    ⟨by simp, by simp, by simp, by simp⟩, ⟨by simp, by simp⟩, by simp, by simp [clocksPerInstruction], by simp⟩

/-! The control instructions. -/

/-- A word with identifier 0 is checked for its argument count and its D (R94). -/
theorem decode_identifier_zero {w : InstrWord} (h : (w >>> 24).toNat = 0) :
    decode w = if (w >>> 22).toNat % 4 ≠ 0 then .illegal .argumentCount
      else if (w >>> 16).toNat % 16 ≠ 0 then .illegal .destination else .instr .nop := by
  have haa : (fieldAA w).toNat ≠ 0 ↔ fieldAA w ≠ 0 := not_congr (BitVec.toNat_inj (y := 0#2))
  have hd : (fieldD w).toNat ≠ 0 ↔ fieldD w ≠ 0 := not_congr (BitVec.toNat_inj (y := 0#4))
  rw [decode_eq_decodeFields, h, ← fieldAA_toNat, ← fieldD_toNat]
  simp only [haa, hd]
  rfl

/-- Settles O18: the decoding of identifier 0, the missing ROM entry of R305, and an instruction that only advances. -/
theorem nopOnlyAdvances : Obligations.NopOnlyAdvances :=
  ⟨fun _ => decode_identifier_zero, by decide, fun _ hcpu hrom => step_of_noEntry hcpu (.inr hrom),
    fun s => ⟨_, rfl, s.advance_nextInSequence, s.advance_sameButPc⟩⟩

/-- Settles O19: STL ends in `State.stall`. -/
theorem stlOnlyDelays : Obligations.StlOnlyDelays :=
  fun _ _ => ⟨_, rfl, nextPc_toNat _ _, rfl, rfl, sameButPc_of_eq rfl⟩

/-- Settles O20: HLT ends in `State.halt`. -/
theorem hltHaltsInPlace : Obligations.HltHaltsInPlace :=
  fun _ => ⟨_, rfl, rfl, rfl, rfl, sameButPc_of_eq rfl⟩

end Sys2Proof.Machine
end

section
/-! PROOF. The ALU instructions (41_alu.md R130 to R150, 10_state.md R28, R37). -/

namespace Sys2Proof.Machine

/-! The flags an ALU instruction loads, by what is defined of them. -/

section flags
variable (s : State) (op : AluOp) (d : RegId) (a b : Word)

theorem State.alu_comparisonFlags (h : comparisonFree s.cfg op = false) : ComparisonFlags a b (s.alu op d a b) :=
  comparisonFlags_of_aluFlags _ _ _ _ _ _ _ (s.alu_flags op d a b) h

/-- Where the comparison flags are undefined they are the drawn bits (R37). -/
theorem State.alu_comparisonFlags_free (h : comparisonFree s.cfg op = true) :
    ∀ n < 5, (s.alu op d a b).flags.getLsbD n = (Config.freeFlags s.draws).getLsbD n := by
  have hflag : ∀ value free, comparisonFlag s.cfg op value free = free := fun _ _ => if_pos h
  intro n hn
  rw [State.alu_flags]
  interval_cases n
  · exact (aluFlags_gt ..).trans (hflag _ _)
  · exact (aluFlags_lt ..).trans (hflag _ _)
  · exact (aluFlags_sgt ..).trans (hflag _ _)
  · exact (aluFlags_slt ..).trans (hflag _ _)
  · exact (aluFlags_eq ..).trans (hflag _ _)

theorem State.alu_carry : (s.alu op d a b).flags.getLsbD 10 =
    carryFlag s.cfg op a b (flagOf (Config.freeFlags s.draws) .c) := by
  rw [State.alu_flags]; exact aluFlags_c ..

theorem State.alu_overflow : (s.alu op d a b).flags.getLsbD 11 =
    overflowFlag op a b (aluResult s.cfg op a b (Config.freeShift s.draws)) (flagOf (Config.freeFlags s.draws) .of) := by
  rw [State.alu_flags]; exact aluFlags_of ..

end flags

/-! ADD and SUB: the overflow flag says that the exact signed result does not fit (R131, D13). -/

theorem word_msb (a : Word) : a.msb = decide (32768 ≤ a.toNat) := BitVec.msb_eq_decide a

theorem add_overflow (a b : Word) : ((a.msb == b.msb) && ((a + b).msb != a.msb)) =
    decide (a.toInt + b.toInt < -32768 ∨ 32767 < a.toInt + b.toInt) := by
  have ha := a.isLt
  have hb := b.isLt
  have hsum : (a + b).toNat = (a.toNat + b.toNat) % 65536 := BitVec.toNat_add a b
  rw [word_msb, word_msb, word_msb, word_toInt, word_toInt, hsum, Bool.eq_iff_iff]
  simp only [Bool.and_eq_true, beq_iff_eq, bne_iff_ne, ne_eq, decide_eq_decide, decide_eq_true_eq]
  split <;> split <;> omega

theorem sub_toNat (a b : Word) : (a - b).toNat = (a.toNat + 65536 - b.toNat) % 65536 := by
  have hb := b.isLt
  rw [BitVec.toNat_sub]
  congr 1
  omega

theorem sub_overflow (a b : Word) : ((a.msb != b.msb) && ((a - b).msb != a.msb)) =
    decide (a.toInt - b.toInt < -32768 ∨ 32767 < a.toInt - b.toInt) := by
  have ha := a.isLt
  have hb := b.isLt
  rw [word_msb, word_msb, word_msb, word_toInt, word_toInt, sub_toNat, Bool.eq_iff_iff]
  simp only [Bool.and_eq_true, bne_iff_ne, ne_eq, decide_eq_decide, decide_eq_true_eq]
  split <;> split <;> omega

/-- Settles O21, by the effect of every ALU instruction and `add_overflow`. -/
theorem addGivesTheSumAndItsFlags : Obligations.AddGivesTheSumAndItsFlags :=
  fun d _ s => ⟨_, _, rfl, BitVec.toNat_add _ _, s.alu_effect .add d _ _, s.alu_comparisonFlags .add d _ _ rfl,
    s.alu_draws .add d _ _, s.alu_carry .add d _ _, (s.alu_overflow .add d _ _).trans (add_overflow _ _)⟩

/-- Settles O22, by the effect of every ALU instruction and `sub_overflow`. -/
theorem subGivesTheDifferenceAndItsFlags : Obligations.SubGivesTheDifferenceAndItsFlags := by
  intro d ab s
  refine ⟨_, _, rfl, sub_toNat _ _, s.alu_effect .sub d _ _, s.alu_comparisonFlags .sub d _ _ rfl,
    s.alu_draws .sub d _ _, fun h => ?_, fun h => ?_, (s.alu_overflow .sub d _ _).trans (sub_overflow _ _)⟩
  · rw [State.alu_carry, carryFlag, h]
  · rw [State.alu_carry, carryFlag, h]

/-! The shifts (R134, R135, R150). -/

theorem shiftRight_toNat (a : Word) (n : Nat) : (shiftRight a n).toNat = a.toNat / 2 ^ n := by
  rw [shiftRight, BitVec.toNat_ushiftRight, Nat.shiftRight_eq_div_pow]

theorem shiftLeft_toNat (a : Word) (n : Nat) : (shiftLeft a n).toNat = a.toNat * 2 ^ n % 65536 := by
  rw [shiftLeft, BitVec.toNat_shiftLeft, Nat.shiftLeft_eq]

/-- What is said of a shift instruction `mk`, whose result by an amount below 16 is `value` of word and amount. -/
def ShiftRule (mk : RegId → Args → Instr) (value : Nat → Nat → Nat) : Prop :=
  ∀ (d : RegId) (ab : Args) (s : State), ∃ t v, exec (mk d ab) s = .next t ∧ AluEffect d v s t ∧
    ComparisonFlags (s.valA ab) (s.valB ab) t ∧ FreeCarryAndOverflow s t ∧
    ((s.valB ab).toNat < 16 → v.toNat = value (s.valA ab).toNat (s.valB ab).toNat) ∧
    (16 ≤ (s.valB ab).toNat → s.cfg.shiftOver = .draw → v = Config.freeShift s.draws) ∧
    (16 ≤ (s.valB ab).toNat → s.cfg.shiftOver = .zero → v.toNat = 0) ∧
    (16 ≤ (s.valB ab).toNat → s.cfg.shiftOver = .mod16 → v.toNat = value (s.valA ab).toNat ((s.valB ab).toNat % 16))

theorem shiftBy_of_lt (cfg : Config) (sh : Word → Nat → Word) (a b free : Word) (h : b.toNat < 16) :
    shiftBy cfg sh a b free = sh a b.toNat := if_pos h

theorem shiftBy_of_ge (cfg : Config) (sh : Word → Nat → Word) (a b free : Word) (h : 16 ≤ b.toNat) :
    shiftBy cfg sh a b free = shiftOver cfg sh a b free := if_neg (Nat.not_lt.mpr h)

theorem shiftRule_of {mk : RegId → Args → Instr} {op : AluOp} {sh : Word → Nat → Word} {value : Nat → Nat → Nat}
    (hexec : ∀ d ab s, exec (mk d ab) s = .next (s.alu op d (s.valA ab) (s.valB ab)))
    (hresult : ∀ cfg a b free, aluResult cfg op a b free = shiftBy cfg sh a b free)
    (hvalue : ∀ a n, (sh a n).toNat = value a.toNat n) (hcompare : ∀ cfg, comparisonFree cfg op = false)
    (hop : op ≠ .add ∧ op ≠ .sub) : ShiftRule mk value := by
  intro d ab s
  refine ⟨_, _, hexec d ab s, s.alu_effect op d _ _, s.alu_comparisonFlags op d _ _ (hcompare _),
    s.alu_freeCarryAndOverflow op d _ _ hop, fun hb => ?_, fun hb h => ?_, fun hb h => ?_, fun hb h => ?_⟩
  · rw [hresult, shiftBy_of_lt _ _ _ _ _ hb, hvalue]
  all_goals rw [hresult, shiftBy_of_ge _ _ _ _ _ hb, shiftOver, h]
  · rfl
  · exact hvalue _ _

/-- Settles O23: RSHIFT and LSHIFT follow one rule with a quotient and a product. -/
theorem shiftsAreLogical : Obligations.ShiftsAreLogical := by
  have hright : ShiftRule .rshift fun a n => a / 2 ^ n :=
    shiftRule_of (fun _ _ _ => rfl) (fun _ _ _ _ => rfl) shiftRight_toNat (fun _ => rfl) (by decide)
  have hleft : ShiftRule .lshift fun a n => a * 2 ^ n % 65536 :=
    shiftRule_of (fun _ _ _ => rfl) (fun _ _ _ _ => rfl) shiftLeft_toNat (fun _ => rfl) (by decide)
  exact fun d ab s => ⟨hright d ab s, hleft d ab s⟩

/-! The multiplies (R136 to R139, R149). -/

theorem productU_toNat (a b : Word) : (productU a b).toNat = a.toNat * b.toNat := by
  have hlt : a.toNat * b.toNat < 65536 * 65536 := Nat.mul_lt_mul'' a.isLt b.isLt
  rw [productU, BitVec.toNat_ofNat, Nat.mod_eq_of_lt (by omega)]

theorem productU_low (a b : Word) : ((productU a b).extractLsb' 0 16).toNat = a.toNat * b.toNat % 65536 := by
  rw [BitVec.extractLsb'_toNat, productU_toNat, Nat.shiftRight_zero]

theorem productU_high (a b : Word) : ((productU a b).extractLsb' 16 16).toNat = a.toNat * b.toNat / 65536 := by
  have hlt := (productU a b).isLt
  rw [BitVec.extractLsb'_toNat, Nat.shiftRight_eq_div_pow, Nat.mod_eq_of_lt (by omega), productU_toNat]

/-- The exact product of two signed words fits 31 bits. -/
theorem signedProduct_bounds (a b : Word) : -2 ^ 30 ≤ a.toInt * b.toInt ∧ a.toInt * b.toInt ≤ 2 ^ 30 := by
  have habs : |a.toInt * b.toInt| ≤ 2 ^ 15 * 2 ^ 15 := by
    rw [abs_mul]
    have hword : ∀ c : Word, |c.toInt| ≤ 2 ^ 15 := fun c =>
      abs_le.mpr ⟨BitVec.le_toInt c, (BitVec.toInt_lt (x := c)).le⟩
    exact mul_le_mul (hword a) (hword b) (abs_nonneg _) (by decide)
  exact abs_le.mp habs

theorem productS_toNat (a b : Word) : ((productS a b).toNat : Int) = a.toInt * b.toInt % 2 ^ 32 := by
  rw [productS, BitVec.toNat_ofInt, Int.toNat_of_nonneg (Int.emod_nonneg _ (by decide))]
  rfl

theorem productS_low (a b : Word) : (((productS a b).extractLsb' 0 16).toNat : Int) = a.toInt * b.toInt % 65536 := by
  have hproduct := productS_toNat a b
  rw [BitVec.extractLsb'_toNat, Nat.shiftRight_zero]
  omega

theorem productS_high (a b : Word) : ((productS a b).extractLsb' 16 16).toInt = a.toInt * b.toInt / 65536 := by
  have hproduct := productS_toNat a b
  have hbounds := signedProduct_bounds a b
  rw [word_toInt, BitVec.extractLsb'_toNat, Nat.shiftRight_eq_div_pow]
  split <;> omega

/-- The lower half of the product is the same for signed and for unsigned operands. -/
theorem productS_low_eq_productU_low (a b : Word) :
    (productS a b).extractLsb' 0 16 = (productU a b).extractLsb' 0 16 := by
  have hword : ∀ c : Word, c.toInt % 65536 = c.toNat := fun c => by
    have hlt := c.isLt
    rw [word_toInt]; split <;> omega
  apply BitVec.eq_of_toNat_eq
  rw [← Int.natCast_inj, productS_low, productU_low, Int.mul_emod, hword, hword, Int.natCast_emod, Int.natCast_mul]
  rfl

/-- The rule of the two-argument instructions after which C and OF are free. -/
theorem aluRule_of {mk : RegId → Args → Instr} {op : AluOp} {o : Word → Word → Word → Prop}
    (hexec : ∀ d ab s, exec (mk d ab) s = .next (s.alu op d (s.valA ab) (s.valB ab)))
    (hresult : ∀ cfg a b free, o a b (aluResult cfg op a b free)) (hcompare : ∀ cfg, comparisonFree cfg op = false)
    (hop : op ≠ .add ∧ op ≠ .sub) : AluRule mk o :=
  fun d ab s => ⟨_, _, hexec d ab s, hresult _ _ _ _, s.alu_effect op d _ _,
    s.alu_comparisonFlags op d _ _ (hcompare _), s.alu_freeCarryAndOverflow op d _ _ hop⟩

/-- Settles O24: the results are the halves of `productU` and `productS`. -/
theorem multipliesGiveHalvesOfTheProduct : Obligations.MultipliesGiveHalvesOfTheProduct := by
  refine ⟨aluRule_of (op := .mul) (fun _ _ _ => rfl) (fun _ a b _ => ?_) (fun _ => rfl) (by decide),
    aluRule_of (op := .smul) (fun _ _ _ => rfl) (fun _ a b _ => ?_) (fun _ => rfl) (by decide),
    aluRule_of (op := .umul) (fun _ _ _ => rfl) (fun _ a b _ => ?_) (fun _ => rfl) (by decide),
    aluRule_of (op := .sumul) (fun _ _ _ => rfl) (fun _ a b _ => ?_) (fun _ => rfl) (by decide)⟩
  all_goals rw [aluResult]
  · exact productU_low a b
  · rw [productS_low]
    exact Int.dvd_self_sub_emod
  · exact productU_high a b
  · exact productS_high a b

/-- Settles O28: quotient and remainder by 65536 give a product back, and MUL and SMUL have one lower half. -/
theorem multiplyPairsGiveTheWholeProduct : Obligations.MultiplyPairsGiveTheWholeProduct := by
  intro d e ab s l u sl su hd he hl hu hsl hsu
  cases hl; cases hu; cases hsl; cases hsu
  have hlow : aluResult s.cfg .smul (s.valA ab) (s.valB ab) (Config.freeShift s.draws) =
      aluResult s.cfg .mul (s.valA ab) (s.valB ab) (Config.freeShift s.draws) := productS_low_eq_productU_low _ _
  simp only [State.alu_reg_same, if_neg hd, if_neg he]
  refine ⟨?_, ?_, hlow.symm, fun n _ _ => ?_⟩
  · rw [aluResult, aluResult, productU_low, productU_high]
    omega
  · rw [aluResult, aluResult, productS_low, productS_high]
    omega
  · rw [State.alu_flags, State.alu_flags, hlow]
    rfl

/-! PASS, NOT and the bitwise instructions (R140 to R147). -/

/-- The flags of the one-argument instructions: the comparison flags by `ONEARG_B`, C and OF free. -/
theorem State.alu_oneArg_flags (s : State) {op : AluOp} (d : RegId) (a : Word) (hop : op = .pass ∨ op = .not) :
    FreeCarryAndOverflow s (s.alu op d a 0) ∧
    (s.cfg.oneArgB = .draw → ∀ n < 5, (s.alu op d a 0).flags.getLsbD n = (Config.freeFlags s.draws).getLsbD n) ∧
    (s.cfg.oneArgB = .zero → ComparisonFlags a 0 (s.alu op d a 0)) := by
  have hfree : comparisonFree s.cfg op = decide (s.cfg.oneArgB = .draw) := by rcases hop with rfl | rfl <;> rfl
  refine ⟨s.alu_freeCarryAndOverflow op d a 0 (by rcases hop with rfl | rfl <;> decide), fun h => ?_, fun h => ?_⟩
  · exact s.alu_comparisonFlags_free op d a 0 (by rw [hfree, h]; rfl)
  · exact s.alu_comparisonFlags op d a 0 (by rw [hfree, h]; rfl)

/-- Settles O25, by the effect of every ALU instruction and `State.alu_oneArg_flags`. -/
theorem passCopiesAndNotComplements : Obligations.PassCopiesAndNotComplements :=
  fun d _ s => ⟨⟨_, rfl, s.alu_effect .pass d _ 0, s.alu_oneArg_flags d _ (.inl rfl)⟩,
    ⟨_, _, rfl, BitVec.toNat_not, s.alu_effect .not d _ 0, s.alu_oneArg_flags d _ (.inr rfl)⟩⟩

/-- Settles O26: each result is a bitwise operation, read off at bit `k`. -/
theorem logicActsOnEachBit : Obligations.LogicActsOnEachBit := by
  unfold Obligations.LogicActsOnEachBit
  and_intros <;> refine aluRule_of (fun _ _ _ => rfl) (fun _ _ _ _ k hk => ?_) (fun _ => rfl) (by decide)
  all_goals simp [aluResult, hk]

/-! The relations between the flags (R28). -/

theorem exactlyOne_of_trichotomy {α : Type} [LinearOrder α] (x y : α) :
    ExactlyOne (decide (y < x)) (decide (x < y)) (decide (x = y)) := by
  rcases lt_trichotomy x y with h | rfl | h
  · simp [ExactlyOne, h, h.ne, h.le]
  · simp [ExactlyOne]
  · simp [ExactlyOne, h, h.ne', h.le]

theorem ComparisonFlags.exclusive {a b : Word} {t : State} (h : ComparisonFlags a b t) :
    ExactlyOne (t.flags.getLsbD 0) (t.flags.getLsbD 1) (t.flags.getLsbD 4) ∧
    ExactlyOne (t.flags.getLsbD 2) (t.flags.getLsbD 3) (t.flags.getLsbD 4) := by
  obtain ⟨hgt, hlt, hsgt, hslt, heq⟩ := h
  have hsigned : decide (a.toNat = b.toNat) = decide (a.toInt = b.toInt) :=
    decide_eq_decide.mpr (BitVec.toNat_inj.trans BitVec.toInt_inj.symm)
  constructor
  · rw [hgt, hlt, heq]; exact exactlyOne_of_trichotomy a.toNat b.toNat
  · rw [hsgt, hslt, heq, hsigned]; exact exactlyOne_of_trichotomy a.toInt b.toInt

/-- Exactly one of Z, S and POS is 1, and bits 12 to 15 are constant. -/
theorem ResultFlags.exclusive {o : Word} {t : State} (h : ResultFlags o t) :
    ExactlyOne (t.flags.getLsbD 5) (t.flags.getLsbD 6) (t.flags.getLsbD 7) ∧
    t.flags.getLsbD 12 = false ∧ t.flags.getLsbD 13 = false ∧ t.flags.getLsbD 14 = false ∧
    t.flags.getLsbD 15 = true := by
  obtain ⟨hz, hs, hpos, -, -, hfixed⟩ := h
  have hzero : decide (o.toNat = 0) = decide (o.toInt = 0) :=
    decide_eq_decide.mpr ((BitVec.toNat_inj (y := 0#16)).trans (BitVec.toInt_inj (y := 0#16)).symm)
  refine ⟨?_, hfixed⟩
  have hone := exactlyOne_of_trichotomy o.toInt 0
  rw [hz, hs, hpos, hzero]
  unfold ExactlyOne at hone ⊢
  omega

theorem exclusiveFlags_of {mk : RegId → Args → Instr} {op : AluOp}
    (hexec : ∀ d ab s, exec (mk d ab) s = .next (s.alu op d (s.valA ab) (s.valB ab)))
    (hcompare : ∀ cfg, comparisonFree cfg op = false) : ExclusiveFlags mk := by
  intro d ab s t ht
  rw [hexec] at ht
  cases ht
  obtain ⟨hunsigned, hsigned⟩ := (s.alu_comparisonFlags op d (s.valA ab) (s.valB ab) (hcompare _)).exclusive
  exact ⟨hunsigned, hsigned, (resultFlags_of_aluFlags _ _ _ _ _ _ _ (s.alu_flags op d _ _)).exclusive⟩

/-- Settles O27: comparisons and the sign of the result exclude each other by trichotomy. -/
theorem flagsAreExclusiveAfterAnAluInstruction : Obligations.FlagsAreExclusiveAfterAnAluInstruction := by
  refine ⟨?_, ?_, ?_, ?_, ?_, ?_, ?_, ?_, ?_, ?_, ?_, ?_, ?_, ?_, ?oneArg⟩
  case oneArg =>
    intro mk hmk d a s t ht
    rcases hmk with rfl | rfl
    all_goals
      cases ht
      exact (resultFlags_of_aluFlags _ _ _ _ _ _ _ (s.alu_flags _ d _ _)).exclusive
  all_goals exact exclusiveFlags_of (fun _ _ _ => rfl) (fun _ => rfl)

end Sys2Proof.Machine
end

section
/-! PROOF. The branches and the set instructions (42_branch.md R170 to R195, 43_set.md R210 to R237, 41_alu.md R148). -/

namespace Sys2Proof.Machine

/-! The branches. -/

/-- A branch on a flag is taken exactly when the flag has the value wanted, and changes nothing else (R170). -/
theorem branchRule_of {mk : Arg → Instr} {n : Flag} {k : Nat} {want : Bool}
    (hexec : ∀ a s, exec (mk a) s = .next (s.branchOn n want a)) (hk : n.bit = k) : BranchRule mk k want := by
  subst hk
  intro a s
  refine ⟨_, hexec a s, ?_⟩
  rcases s.branchOn_cases n want a with ⟨hflag, h⟩ | ⟨hflag, h⟩
  · rw [h, if_pos (show s.flags.getLsbD n.bit = want from hflag)]
    exact ⟨s.jump_branchesTo _, s.jump_sameButPc _⟩
  · rw [h, if_neg (show ¬ s.flags.getLsbD n.bit = want from hflag)]
    exact ⟨s.advance_nextInSequence, s.advance_sameButPc⟩

/-- Settles O29, each branch by the rule for its flag. -/
theorem branchesOnASetFlag : Obligations.BranchesOnASetFlag := by
  unfold Obligations.BranchesOnASetFlag
  and_intros <;> exact branchRule_of (fun _ _ => rfl) rfl

/-- Settles O30, each branch by the rule for its flag. -/
theorem branchesOnAClearFlag : Obligations.BranchesOnAClearFlag := by
  unfold Obligations.BranchesOnAClearFlag
  and_intros <;> exact branchRule_of (fun _ _ => rfl) rfl

/-- No operand depends on FLAGS. -/
theorem State.valArg_withFlags (s : State) (f : Word) (a : Arg) : { s with flags := f }.valArg a = s.valArg a := by
  cases a <;> rfl

/-- Settles O31: BRN ends in `State.jump`, to a target that does not depend on FLAGS. -/
theorem brnAlwaysBranches : Obligations.BrnAlwaysBranches := by
  intro a s f
  have hbranch := State.jump_branchesTo { s with flags := f } ({ s with flags := f }.valArg a)
  obtain ⟨hregs, hflags, hram, hout, hfixed, hsupply⟩ :=
    State.jump_sameButPc { s with flags := f } ({ s with flags := f }.valArg a)
  rw [State.valArg_withFlags] at hbranch
  exact ⟨_, rfl, hbranch, hregs, hflags, hram, hout, hfixed, hsupply⟩

theorem complementary_of {mk mk' : Arg → Instr} {n : Flag}
    (hset : ∀ a s, exec (mk a) s = .next (s.branchOn n true a))
    (hclear : ∀ a s, exec (mk' a) s = .next (s.branchOn n false a)) : Complementary mk mk' := by
  intro a s t u ht hu
  rw [hset] at ht
  rw [hclear] at hu
  cases ht
  cases hu
  unfold State.branchOn
  cases s.flag n
  · exact .inr ⟨s.advance_nextInSequence, s.jump_branchesTo _⟩
  · exact .inl ⟨s.jump_branchesTo _, s.advance_nextInSequence⟩

/-- Settles O32: the two branches of a pair want the two values of one flag. -/
theorem branchPairsAreComplementary : Obligations.BranchPairsAreComplementary := by
  unfold Obligations.BranchPairsAreComplementary
  and_intros <;> exact complementary_of (fun _ _ => rfl) fun _ _ => rfl

/-! The flags after a compare (R148). -/

/-- The state after the compare `SUB $0 A B`. -/
def State.compare (s : State) (ab : Args) : State := s.alu .sub 0 (s.valA ab) (s.valB ab)

theorem State.compare_reg (s : State) (ab : Args) (r : RegId) : (s.compare ab).reg r = s.reg r := by
  by_cases hr : r = 0
  · subst hr; exact ((s.compare ab).reg_zero).trans s.reg_zero.symm
  · exact s.alu_reg_other .sub 0 _ _ r hr

theorem State.compare_valArg (s : State) (ab : Args) (a : Arg) : (s.compare ab).valArg a = s.valArg a := by
  cases a with
  | imm a => rfl
  | reg r => exact s.compare_reg ab r

section compareFlags
variable (s : State) (ab : Args)

theorem State.compare_flag (n : Flag) : (s.compare ab).flag n = flagOf (aluFlags s.cfg .sub (s.valA ab) (s.valB ab)
    (s.valA ab - s.valB ab) (Config.freeFlags s.draws)) n :=
  s.alu_flag .sub 0 _ _ n

theorem State.compare_gt : (s.compare ab).flag .gt = decide ((s.valB ab).toNat < (s.valA ab).toNat) := by
  rw [State.compare_flag, aluFlags_gt]; rfl
theorem State.compare_lt : (s.compare ab).flag .lt = decide ((s.valA ab).toNat < (s.valB ab).toNat) := by
  rw [State.compare_flag, aluFlags_lt]; rfl
theorem State.compare_sgt : (s.compare ab).flag .sgt = decide ((s.valB ab).toInt < (s.valA ab).toInt) := by
  rw [State.compare_flag, aluFlags_sgt]; rfl
theorem State.compare_slt : (s.compare ab).flag .slt = decide ((s.valA ab).toInt < (s.valB ab).toInt) := by
  rw [State.compare_flag, aluFlags_slt]; rfl
theorem State.compare_eq : (s.compare ab).flag .eq = decide (s.valA ab = s.valB ab) := by
  rw [State.compare_flag, aluFlags_eq]; rfl
/-- The difference is 0 exactly when the operands are equal. -/
theorem State.compare_z : (s.compare ab).flag .z = decide (s.valA ab = s.valB ab) := by
  rw [State.compare_flag, aluFlags_z, decide_eq_decide]
  exact sub_eq_zero

end compareFlags

/-- A branch on the flag `n` after a compare follows the relation that the flag then says. -/
theorem takenAfterCompare_of {mk : Arg → Instr} {n : Flag} {want : Bool} {rel : Word → Word → Prop}
    (hexec : ∀ a s, exec (mk a) s = .next (s.branchOn n want a))
    (hrel : ∀ (s : State) ab, (s.compare ab).flag n = want ↔ rel (s.valA ab) (s.valB ab)) :
    TakenAfterCompare mk rel := by
  intro ab a s t u ht hu
  obtain rfl : t = s.compare ab := by cases ht; rfl
  rw [hexec] at hu
  cases hu
  rw [← hrel s ab, ← s.compare_valArg ab a]
  rcases (s.compare ab).branchOn_cases n want a with ⟨hflag, h⟩ | ⟨hflag, h⟩ <;> rw [h]
  · exact ⟨fun _ => State.jump_branchesTo _ _, fun hn => absurd hflag hn⟩
  · exact ⟨fun hp => absurd hp hflag, fun _ => State.advance_nextInSequence _⟩

/-- Settles O33, each branch by what its flag says after a compare. -/
theorem compareThenBranchFollowsTheComparison : Obligations.CompareThenBranchFollowsTheComparison := by
  unfold Obligations.CompareThenBranchFollowsTheComparison
  and_intros <;> refine takenAfterCompare_of (fun _ _ => rfl) fun s ab => ?_
  all_goals simp [State.compare_gt, State.compare_lt, State.compare_sgt, State.compare_slt, State.compare_eq,
    State.compare_z]

/-! The set instructions. -/

/-- A select on a flag writes A or B, by the flag, and changes nothing else but `pc` and the clock (R210). -/
theorem selectRule_of {mk : RegId → SetArgs → Instr} {n : Flag} {k : Nat} {want : Bool}
    (hexec : ∀ d ab s, exec (mk d ab) s = .next (s.selectOn n want d ab)) (hk : n.bit = k) : SelectRule mk k want :=
  hk ▸ fun d s => ⟨fun a => ⟨_, hexec d (.one a) s, s.setReg_advance_effect d _⟩,
    fun ab => ⟨_, hexec d (.two ab) s, s.setReg_advance_effect d _⟩⟩

/-- Settles O34, each instruction by the rule for its flag. -/
theorem selectsOnASetFlag : Obligations.SelectsOnASetFlag := by
  unfold Obligations.SelectsOnASetFlag
  and_intros <;> exact selectRule_of (fun _ _ _ => rfl) rfl

/-- Settles O35, each instruction by the rule for its flag. -/
theorem selectsOnAClearFlag : Obligations.SelectsOnAClearFlag := by
  unfold Obligations.SelectsOnAClearFlag
  and_intros <;> exact selectRule_of (fun _ _ _ => rfl) rfl

/-- Settles O36: both end in `State.copy`, of a value that does not depend on FLAGS. -/
theorem movAndLdiCopy : Obligations.MovAndLdiCopy := by
  intro d a s f
  have heffect := State.setReg_advance_effect { s with flags := f } d ({ s with flags := f }.valArg a)
  obtain ⟨hholds, hregs, hflags, hram, hout, hfixed, hsupply, hnext⟩ := heffect
  refine ⟨_, rfl, rfl, ?_, hregs, hflags, hram, hout, hfixed, hsupply, hnext⟩
  rw [← State.valArg_withFlags]
  exact hholds

/-- A select on the flag `n` after a compare of two registers picks the one that the relation then names. -/
theorem selectAfterCompare_of {mk : RegId → SetArgs → Instr} {n : Flag} {rel : Word → Word → Prop}
    {pick : Word → Word → Word → Prop} (hexec : ∀ d ab s, exec (mk d ab) s = .next (s.selectOn n true d ab))
    (hrel : ∀ (s : State) ab, (s.compare ab).flag n = true ↔ rel (s.valA ab) (s.valB ab))
    (hfirst : ∀ a b, rel a b → pick a b a) (hsecond : ∀ a b, ¬ rel a b → pick a b b) : SelectAfterCompare mk pick := by
  intro p q d s t u hd ht hu
  obtain rfl : t = s.compare (.regReg p q) := by cases ht; rfl
  rw [hexec] at hu
  cases hu
  rw [State.selectOn_reg_same, if_neg hd]
  split
  case isTrue hflag =>
    rw [State.valSetA, State.valA, State.compare_reg]
    exact hfirst _ _ ((hrel s _).mp hflag)
  case isFalse hflag =>
    rw [State.valSetB, State.valB, State.compare_reg]
    exact hsecond _ _ fun h => hflag ((hrel s _).mpr h)

/-- Settles O37: the flag says which of the two registers is the greater. -/
theorem compareThenSelectGivesMaximumAndMinimum : Obligations.CompareThenSelectGivesMaximumAndMinimum := by
  refine ⟨selectAfterCompare_of (n := .gt) (rel := fun a b => b.toNat < a.toNat) (fun _ _ _ => rfl) (fun s ab => ?_)
      (fun _ _ h => (max_eq_left h.le).symm) fun _ _ h => (max_eq_right (not_lt.mp h)).symm,
    selectAfterCompare_of (n := .lt) (rel := fun a b => a.toNat < b.toNat) (fun _ _ _ => rfl) (fun s ab => ?_)
      (fun _ _ h => (min_eq_left h.le).symm) fun _ _ h => (min_eq_right (not_lt.mp h)).symm,
    selectAfterCompare_of (n := .sgt) (rel := fun a b => b.toInt < a.toInt) (fun _ _ _ => rfl) (fun s ab => ?_)
      (fun _ _ h => (max_eq_left h.le).symm) fun _ _ h => (max_eq_right (not_lt.mp h)).symm,
    selectAfterCompare_of (n := .slt) (rel := fun a b => a.toInt < b.toInt) (fun _ _ _ => rfl) (fun s ab => ?_)
      (fun _ _ h => (min_eq_left h.le).symm) fun _ _ h => (min_eq_right (not_lt.mp h)).symm⟩
  all_goals simp [State.compare_gt, State.compare_lt, State.compare_sgt, State.compare_slt]

end Sys2Proof.Machine
end

section
/-! PROOF. Memory, ports and the display (44_memory_io.md R251 to R254, 45_gfx.md R270 to R273, 20_memory.md R52 to R60). -/

namespace Sys2Proof.Machine

/-! The RAM read (R36, R52). -/

theorem State.memRead_held {s : State} {addr : Word} {i : Nat} {v : Word} (hi : ramIndex s.cfg addr = some i)
    (hv : s.ramWord i = some v) : s.memRead addr = .ok (v, s) := by
  simp only [State.memRead, hi, State.ramRead, hv]

theorem State.memRead_unwritten_fault {s : State} {addr : Word} {i : Nat} (hi : ramIndex s.cfg addr = some i)
    (hv : s.ramWord i = none) (hu : s.cfg.unwritten = .fault) : s.memRead addr = .error (.unwrittenRead i) := by
  simp only [State.memRead, hi, State.ramRead, hv, hu]

theorem State.memRead_unwritten_draw {s : State} {addr : Word} {i : Nat} (hi : ramIndex s.cfg addr = some i)
    (hv : s.ramWord i = none) (hu : s.cfg.unwritten = .draw) : s.memRead addr =
      .ok (Config.freeRam s.draws, { s.putRam i (Config.freeRam s.draws) with draws := s.draws + 1 }) := by
  simp only [State.memRead, hi, State.ramRead, hv, hu]

theorem State.memRead_outOfRange {s : State} {addr : Word} (haddr : ramWords ≤ addr.toNat)
    (hoob : s.cfg.ramOob = .fault) : s.memRead addr = .error (.ramOutOfRange addr) := by
  simp only [State.memRead, ramIndex_eq_none s.cfg addr haddr hoob]

/-! LOD and STR: what the RAM operation answers decides what the instruction does. -/

section exec
variable {d : RegId} {a : Arg} {s s' : State} {v : Word} {f : Fault}

theorem exec_lod_next (h : s.memRead (s.valArg a) = .ok (v, s')) : exec (.lod d a) s = .next (s'.setReg d v).advance := by
  rw [exec, execLod, h]; rfl

theorem exec_lod_fault (h : s.memRead (s.valArg a) = .error f) : exec (.lod d a) s = .fault f := by
  rw [exec, execLod, h]; rfl

theorem exec_str_next (h : s.memWrite (s.valArg a) (s.reg d) = .ok s') : exec (.str d a) s = .next s'.advance := by
  rw [exec, execStr, h]; rfl

theorem exec_str_fault (h : s.memWrite (s.valArg a) (s.reg d) = .error f) : exec (.str d a) s = .fault f := by
  rw [exec, execStr, h]; rfl

theorem exec_inPort_next (h : s.portIn (s.valArg a) = .ok (v, s')) :
    exec (.inPort d a) s = .next (s'.setReg d v).advance := by
  rw [exec, execInPort, h]; rfl

theorem exec_inPort_fault (h : s.portIn (s.valArg a) = .error f) : exec (.inPort d a) s = .fault f := by
  rw [exec, execInPort, h]; rfl

theorem exec_outPort_next (h : s.portOut (s.valArg a) (s.reg d) = .ok s') :
    exec (.outPort d a) s = .next s'.advance := by
  rw [exec, execOutPort, h]; rfl

theorem exec_outPort_fault (h : s.portOut (s.valArg a) (s.reg d) = .error f) : exec (.outPort d a) s = .fault f := by
  rw [exec, execOutPort, h]; rfl

end exec

/-- Settles O38: the read answers the held word and leaves the state alone. -/
theorem lodReadsTheHeldWord : Obligations.LodReadsTheHeldWord :=
  fun d _ s v haddr hv => ⟨_, exec_lod_next (State.memRead_held (ramIndex_eq _ _ haddr) hv), s.setReg_advance_effect d v⟩

/-- Settles O39: the read faults, or draws a word and holds it. -/
theorem lodOfAnUnwrittenWord : Obligations.LodOfAnUnwrittenWord := by
  intro d a s haddr hnone
  have hindex := ramIndex_eq s.cfg (s.valArg a) haddr
  refine ⟨fun hu => exec_lod_fault (State.memRead_unwritten_fault hindex hnone hu), fun hu => ?_⟩
  refine ⟨_, exec_lod_next (State.memRead_unwritten_draw hindex hnone hu), ?_⟩
  obtain ⟨hholds, hregs, hflags, hram, hout, hfixed, ⟨hinputs, hdraws⟩, hnext⟩ := State.setReg_advance_effect
    { s.putRam ((s.valArg a).toNat % ramWords) (Config.freeRam s.draws) with draws := s.draws + 1 } d
    (Config.freeRam s.draws)
  exact ⟨hholds, (hram _).trans (s.putRam_ramWord_same _ _), hdraws, hregs, hflags,
    fun b hb => (hram b).trans (s.putRam_ramWord_other _ b _ hb), hout, hfixed, hinputs, hnext⟩

/-- Settles O40: the address names no word. -/
theorem ramOutOfRangeFaults : Obligations.RamOutOfRangeFaults :=
  fun _ _ s haddr hoob => ⟨exec_lod_fault (State.memRead_outOfRange haddr hoob),
    exec_str_fault (s.memWrite_outOfRange _ _ haddr hoob)⟩

/-- Settles O42: `putRam` changes one word and no other part of the state. -/
theorem strWritesOneWord : Obligations.StrWritesOneWord :=
  fun d a s haddr => ⟨_, exec_str_next (s.memWrite_eq_putRam _ _ haddr), s.putRam_ramWord_same _ _,
    fun b hb => s.putRam_ramWord_other _ b _ hb, fun _ => rfl, rfl, ⟨fun _ => rfl, rfl⟩, ⟨rfl, rfl, rfl, rfl⟩, ⟨rfl, rfl⟩,
    State.advance_nextInSequence (s.putRam ((s.valArg a).toNat % ramWords) (s.reg d))⟩

/-- Settles O43: the STR's address names a word, which holds the value that the LOD then reads. -/
theorem storeThenLoadGivesTheStoredValue : Obligations.StoreThenLoadGivesTheStoredValue := by
  intro d e a b s t ht hab
  obtain ⟨s', hwrite, rfl⟩ := andThen_next _ _ _ ht
  obtain ⟨i, hi, rfl⟩ := s.memWrite_cases _ _ s' hwrite
  rw [← hab] at hi
  exact ⟨_, exec_lod_next (State.memRead_held hi (s.putRam_ramWord_same i _)), State.setReg_reg_same _ e _⟩

/-! The ports (R58, R59). -/

theorem State.portIn_eq {s : State} {n : Word} (h : n.toNat < 16 ∨ s.cfg.portOob = .low4) :
    s.portIn n = .ok (s.takeInput (BitVec.ofNat 4 (n.toNat % 16))) := by
  simp only [State.portIn, portIndex_eq s.cfg n h]

theorem State.portOut_eq {s : State} {n v : Word} (h : n.toNat < 16 ∨ s.cfg.portOob = .low4) :
    s.portOut n v = .ok (s.putPort (BitVec.ofNat 4 (n.toNat % 16)) v) := by
  simp only [State.portOut, portIndex_eq s.cfg n h]

theorem portIndex_eq_none {cfg : Config} {n : Word} (hn : 16 ≤ n.toNat) (hoob : cfg.portOob = .fault) :
    portIndex cfg n = none := by
  unfold portIndex
  rw [if_neg (Nat.not_lt.mpr hn), hoob]

theorem State.takeInput_listed {s : State} {v : Word} {rest : List Word} (h : s.inputs = v :: rest) (p : PortId) :
    s.takeInput p = (v, { s with inputs := rest }) := by
  rw [State.takeInput, h]

theorem State.takeInput_free {s : State} (h : s.inputs = []) (p : PortId) :
    s.takeInput p = (Config.freeInput s.draws p, { s with draws := s.draws + 1 }) := by
  rw [State.takeInput, h]

/-- Settles O44, by whether the environment's list holds a value. -/
theorem inReadsTheEnvironment : Obligations.InReadsTheEnvironment := by
  intro d a s hport
  have hin := State.portIn_eq hport
  cases hinputs : s.inputs with
  | cons w rest =>
    rw [State.takeInput_listed hinputs] at hin
    obtain ⟨hholds, hregs, hflags, hram, hout, hfixed, ⟨htaken, hdraws⟩, hnext⟩ :=
      State.setReg_advance_effect { s with inputs := rest } d w
    refine ⟨_, w, exec_inPort_next hin, hholds, hregs, hflags, hram, hout, hfixed, hnext, fun _ _ h => ?_, nofun⟩
    cases h
    exact ⟨rfl, htaken, hdraws⟩
  | nil =>
    rw [State.takeInput_free hinputs] at hin
    obtain ⟨hholds, hregs, hflags, hram, hout, hfixed, ⟨htaken, hdraws⟩, hnext⟩ :=
      State.setReg_advance_effect { s with draws := s.draws + 1 } d (Config.freeInput s.draws _)
    exact ⟨_, _, exec_inPort_next hin, hholds, hregs, hflags, hram, hout, hfixed, hnext, nofun,
      fun _ => ⟨htaken.trans hinputs, hdraws, rfl⟩⟩

/-- Settles O45: `putPort` sets one latch and appends one event. -/
theorem outSetsTheLatchAndRecordsTheEvent : Obligations.OutSetsTheLatchAndRecordsTheEvent := by
  intro d a s hport
  have hp : (BitVec.ofNat 4 ((s.valArg a).toNat % 16)).toNat = (s.valArg a).toNat % 16 := by
    rw [BitVec.toNat_ofNat, Nat.mod_mod]
  exact ⟨_, _, exec_outPort_next (State.portOut_eq hport), hp, s.putPort_outPort_same _ _,
    fun q hq => s.putPort_outPort_other _ q _ hq, rfl, fun _ => rfl, rfl, fun _ => rfl, ⟨rfl, rfl, rfl, rfl⟩, ⟨rfl, rfl⟩,
    State.advance_nextInSequence (s.putPort _ _)⟩

/-- Settles O46: the number names no port. -/
theorem portOutOfRangeFaults : Obligations.PortOutOfRangeFaults := by
  intro d a s hn hoob
  have hindex := portIndex_eq_none hn hoob
  exact ⟨exec_inPort_fault (by simp only [State.portIn, hindex]),
    exec_outPort_fault (by simp only [State.portOut, hindex])⟩

/-! The display (R271, R273). -/

/-- Settles O47: one request is appended, and what it makes known of a pixel is said by `pixelValue_append`. -/
theorem gfxspSendsOneRequest : Obligations.GfxspSendsOneRequest := by
  intro d ab s
  refine ⟨_, rfl, rfl, fun screen => ⟨fun hon => ⟨?_, fun x y hxy => ?_⟩, fun hoff x y => ?_, fun x y hoff => ?_⟩,
    fun _ => rfl, fun _ => rfl, rfl, fun _ => rfl, ⟨rfl, rfl, rfl, rfl⟩, ⟨rfl, rfl⟩,
    State.advance_nextInSequence (s.gfxSend _ _ _)⟩
  · exact (pixelValue_append ..).trans (pixelAfter_set hon _ _)
  · refine (pixelValue_append ..).trans (pixelAfter_other hon ?_ _ _)
    rintro ⟨rfl, rfl⟩
    exact hxy.elim (fun h => h rfl) fun h => h rfl
  · exact (pixelValue_append ..).trans (pixelAfter_offScreen hoff x y _ _)
  · exact pixelValue_offScreen hoff _

end Sys2Proof.Machine
end

section
/-! PROOF. What an instruction leaves of the fixed parts, FLAGS, the run state, the clock, the RAM and the events (10_state.md
R22 to R33, 20_memory.md R50, R60 to R64, 70_reset_and_hazards.md R340). -/

namespace Sys2Proof.Machine

/-! What happens before the end of an instruction that is neither of the ALU nor a branch. -/

/-- The parts of the state that only the end of an instruction, the ALU and the operator change. -/
def SameControl (s s' : State) : Prop :=
  SameFixed s s' ∧ s'.flags = s.flags ∧ s'.runState = s.runState ∧ s'.clocks = s.clocks ∧ s'.pc = s.pc

theorem sameControl_of_eq {s s' : State}
    (h : s' = { s with regs := s'.regs, ram := s'.ram, outPorts := s'.outPorts, events := s'.events,
                       inputs := s'.inputs, draws := s'.draws }) : SameControl s s' := by
  rw [h]
  exact ⟨⟨rfl, rfl, rfl, rfl⟩, rfl, rfl, rfl, rfl⟩

theorem SameControl.refl (s : State) : SameControl s s := sameControl_of_eq rfl

theorem State.memRead_sameControl {s s' : State} {addr v : Word} (h : s.memRead addr = .ok (v, s')) :
    SameControl s s' := by
  obtain ⟨a, -, ⟨-, rfl⟩ | ⟨-, -, -, rfl⟩⟩ := s.memRead_cases addr v s' h
  · exact .refl _
  · exact sameControl_of_eq rfl

theorem State.memWrite_sameControl {s s' : State} {addr v : Word} (h : s.memWrite addr v = .ok s') :
    SameControl s s' := by
  obtain ⟨a, -, rfl⟩ := s.memWrite_cases addr v s' h
  exact sameControl_of_eq rfl

theorem State.portIn_sameControl {s s' : State} {n v : Word} (h : s.portIn n = .ok (v, s')) : SameControl s s' := by
  obtain ⟨p, -, ⟨rest, -, rfl⟩ | ⟨-, -, rfl⟩⟩ := s.portIn_cases n v s' h
  · exact sameControl_of_eq rfl
  · exact sameControl_of_eq rfl

theorem State.portOut_sameControl {s s' : State} {n v : Word} (h : s.portOut n v = .ok s') : SameControl s s' := by
  obtain ⟨p, -, rfl⟩ := s.portOut_cases n v s' h
  exact sameControl_of_eq rfl

theorem SameControl.setReg {s s' : State} (h : SameControl s s') (d : RegId) (v : Word) :
    SameControl s (s'.setReg d v) := by
  obtain ⟨⟨hrom, himage, hcfg, hop⟩, hflags, hrun, hclocks, hpc⟩ := h
  exact ⟨⟨by simpa, by simpa, by simpa, by simpa⟩, by simpa, by simpa, by simpa, by simpa⟩

/-! What an instruction leaves of them, said once for all instructions. -/

/-- What the instruction `i` leaves of the fixed parts, FLAGS, the run state and the clock. -/
structure ExecFrame (i : Instr) (s t : State) : Prop where
  fixed : SameFixed s t
  flags : (encode i >>> 28).toNat ≠ 1 → t.flags = s.flags
  runState : i ≠ .hlt → t.runState = s.runState
  clocks : (∀ a, i ≠ .stl a) → t.clocks = s.clocks + 4

theorem SameControl.execFrame {s s' : State} (h : SameControl s s') (i : Instr) : ExecFrame i s s'.advance := by
  obtain ⟨hfixed, hflags, hrun, hclocks, -⟩ := h
  exact ⟨hfixed, fun _ => hflags, fun _ => hrun, fun _ => congrArg (· + 4) hclocks⟩

theorem exec_frame {i : Instr} {s t : State} (hexec : exec i s = .next t) : ExecFrame i s t := by
  cases exec_cases i s t hexec with
  | nop h => exact h ▸ (SameControl.refl s).execFrame i
  | stl a h hi => subst h; exact ⟨⟨rfl, rfl, rfl, rfl⟩, fun _ => rfl, fun _ => rfl, fun hne => absurd hi (hne a)⟩
  | hlt h hi => subst h; exact ⟨⟨rfl, rfl, rfl, rfl⟩, fun _ => rfl, fun hne => absurd hi hne, fun _ => rfl⟩
  | alu op d a b h h28 =>
    subst h
    obtain ⟨-, -, -, -, -, hfixed, -, -, hclocks, hrun⟩ := s.alu_effect op d a b
    exact ⟨hfixed, fun hne => absurd h28 hne, fun _ => hrun, fun _ => hclocks⟩
  | branch a _ h =>
    rcases h with rfl | rfl
    · exact ⟨⟨rfl, rfl, rfl, rfl⟩, fun _ => rfl, fun _ => rfl, fun _ => rfl⟩
    · exact (SameControl.refl s).execFrame i
  | set d v h => exact h ▸ ((SameControl.refl s).setReg d v).execFrame i
  | lod d a v s' h ht => exact ht ▸ ((State.memRead_sameControl h).setReg d v).execFrame i
  | str d a s' h ht => exact ht ▸ (State.memWrite_sameControl h).execFrame i
  | inPort d a v s' h ht => exact ht ▸ ((State.portIn_sameControl h).setReg d v).execFrame i
  | outPort d a s' h ht => exact ht ▸ (State.portOut_sameControl h).execFrame i
  | gfxsp d ab h => exact h ▸ (sameControl_of_eq rfl : SameControl s (s.gfxSend _ _ _)).execFrame i

/-- Settles O48, by `exec_frame`. -/
theorem onlyAluInstructionsWriteFlags : Obligations.OnlyAluInstructionsWriteFlags :=
  fun _ _ _ h => (exec_frame h).flags

/-- Settles O54, by `exec_frame`. -/
theorem onlyHltChangesTheRunState : Obligations.OnlyHltChangesTheRunState :=
  fun _ _ _ h => (exec_frame h).runState

/-- Settles O55, by `exec_frame`. -/
theorem everyInstructionButStlTakesFourClocks : Obligations.EveryInstructionButStlTakesFourClocks :=
  fun _ _ _ h => (exec_frame h).clocks

/-! The program (R62). -/

theorem step_keeps_program {s t : State} (h : step s = .next t) :
    t.rom = s.rom ∧ t.ramImage = s.ramImage ∧ t.cfg = s.cfg := by
  obtain ⟨l, rfl | ⟨-, w, i, -, -, hexec⟩ | ⟨-, rfl⟩ | rfl⟩ := step_cases s t h
  · exact ⟨rfl, rfl, rfl⟩
  · obtain ⟨hrom, himage, hcfg, -⟩ := (exec_frame hexec).fixed
    exact ⟨hrom, himage, hcfg⟩
  · exact ⟨rfl, rfl, rfl⟩
  · exact ⟨rfl, rfl, rfl⟩

/-- A run of `k + 1` steps that answers a next state is a step and a run of `k`. -/
theorem run_succ_next {M : Host.Core} {k : Nat} {s t : M.State} (h : M.run (k + 1) s = .next t) :
    ∃ s', M.step s = .next s' ∧ M.run k s' = .next t := by
  rw [Host.Core.run] at h
  split at h
  · exact ⟨_, ‹_›, h⟩
  · cases h
  · cases h

theorem run_keeps_rom (k : Nat) (s t : State) (h : Host.Core.run Sys2Proof.core k s = .next t) : t.rom = s.rom := by
  induction k generalizing s with
  | zero => cases h; rfl
  | succ k ih =>
    obtain ⟨s', hstep, hrun⟩ := run_succ_next h
    exact (ih s' hrun).trans (step_keeps_program hstep).1

/-- Settles O51: one instruction, one step, and a run by induction on the number of steps. -/
theorem noStepChangesTheProgram : Obligations.NoStepChangesTheProgram :=
  ⟨fun _ _ _ h => (exec_frame h).fixed.1, fun _ _ => step_keeps_program, run_keeps_rom⟩

/-! The RAM (R50, R60). -/

/-- An instruction but STR leaves the RAM as it is, or is a LOD that draws a word which held no value. -/
theorem exec_ram {i : Instr} {s t : State} (hexec : exec i s = .next t) (hstr : ∀ d a, i ≠ .str d a) :
    SameRam s t ∨ ∃ a v, s.cfg.unwritten = .draw ∧ s.ramWord a = none ∧ SameRam (s.putRam a v) t := by
  cases exec_cases i s t hexec with
  | nop h | stl a h | hlt h | gfxsp d ab h => subst h; exact .inl fun _ => rfl
  | alu op d a b h => subst h; exact .inl fun k => s.alu_ramWord op d a b k
  | branch a _ h => rcases h with rfl | rfl <;> exact .inl fun _ => rfl
  | set d v h => subst h; exact .inl fun k => s.setReg_ramWord d v k
  | lod d a v s' h ht =>
    subst ht
    obtain ⟨k, -, ⟨-, rfl⟩ | ⟨hnone, hdraw, -, rfl⟩⟩ := s.memRead_cases _ v s' h
    · exact .inl fun _ => State.setReg_ramWord _ d v _
    · exact .inr ⟨k, v, hdraw, hnone, fun _ => State.setReg_ramWord _ d v _⟩
  | str d a s' h ht hi => exact absurd hi (hstr d a)
  | inPort d a v s' h ht =>
    subst ht
    obtain ⟨p, -, ⟨rest, -, rfl⟩ | ⟨-, -, rfl⟩⟩ := s.portIn_cases _ v s' h
    all_goals exact .inl fun _ => State.setReg_ramWord _ d v _
  | outPort d a s' h ht =>
    subst ht
    obtain ⟨p, -, rfl⟩ := s.portOut_cases _ _ s' h
    exact .inl fun _ => rfl

/-- Settles O52: the word a LOD draws held no value before. -/
theorem onlyStrChangesAHeldRamWord : Obligations.OnlyStrChangesAHeldRamWord := by
  intro i s t hexec hstr
  rcases exec_ram hexec hstr with hsame | ⟨a, v, hdraw, hnone, hput⟩
  · exact ⟨fun b w hb => (hsame b).trans hb, fun _ => hsame⟩
  · refine ⟨fun b w hb => ?_, fun hfault => nomatch hdraw.symm.trans hfault⟩
    have hne : b ≠ a := by rintro rfl; exact nomatch hnone.symm.trans hb
    exact (hput b).trans ((s.putRam_ramWord_other a b v hne).trans hb)

/-! The events (R32, R60, R64). -/

theorem SameOutputs.refl (s : State) : SameOutputs s s := ⟨fun _ => rfl, rfl⟩

theorem SameOutputs.setReg_advance {s s' : State} (h : SameOutputs s s') (d : RegId) (v : Word) :
    SameOutputs s (s'.setReg d v).advance := by
  obtain ⟨hports, hevents⟩ := h
  exact ⟨fun p => by simpa using hports p, by simpa using hevents⟩

theorem State.memRead_sameOutputs {s s' : State} {addr v : Word} (h : s.memRead addr = .ok (v, s')) :
    SameOutputs s s' := by
  obtain ⟨a, -, ⟨-, rfl⟩ | ⟨-, -, -, rfl⟩⟩ := s.memRead_cases addr v s' h
  · exact .refl _
  · exact ⟨fun _ => rfl, rfl⟩

theorem State.portIn_sameOutputs {s s' : State} {n v : Word} (h : s.portIn n = .ok (v, s')) : SameOutputs s s' := by
  obtain ⟨p, -, ⟨rest, -, rfl⟩ | ⟨-, -, rfl⟩⟩ := s.portIn_cases n v s' h
  · exact ⟨fun _ => rfl, rfl⟩
  · exact ⟨fun _ => rfl, rfl⟩

/-- The identifier of OUT or GFXSP. -/
def Sends (I : Nat) : Prop := I = 0xCC ∨ I = 0xD0

/-- An instruction either has the identifier of OUT or GFXSP and appends one event, or has another identifier and leaves
the outputs alone. -/
theorem exec_events {i : Instr} {s t : State} (hexec : exec i s = .next t) :
    (Sends (encode i >>> 24).toNat ∧ ∃ e, t.events = s.events ++ [e]) ∨
    (¬ Sends (encode i >>> 24).toNat ∧ SameOutputs s t) := by
  unfold Sends
  cases exec_cases i s t hexec with
  | nop h hi => subst h hi; exact .inr ⟨by decide, .refl s⟩
  | stl a h hi =>
    subst h hi
    obtain ⟨hI, -⟩ := encodeOne_fields 0x04#8 0 a
    exact .inr ⟨by rw [encode, hI]; decide, .refl s⟩
  | hlt h hi => subst h hi; exact .inr ⟨by decide, .refl s⟩
  | alu op d a b h _ _ h24 =>
    subst h
    obtain ⟨-, -, -, -, hout, -⟩ := s.alu_effect op d a b
    exact .inr ⟨by omega, hout⟩
  | branch a _ h h24 => rcases h with rfl | rfl <;> exact .inr ⟨by omega, .refl s⟩
  | set d v h _ h24 => subst h; exact .inr ⟨by omega, (SameOutputs.refl s).setReg_advance d v⟩
  | lod d a v s' h ht hi =>
    subst ht hi
    obtain ⟨hI, -⟩ := encodeOne_fields 0xC0#8 d a
    exact .inr ⟨by rw [encode, hI]; decide, (State.memRead_sameOutputs h).setReg_advance d v⟩
  | str d a s' h ht hi =>
    subst ht hi
    obtain ⟨hI, -⟩ := encodeOne_fields 0xC4#8 d a
    obtain ⟨k, -, rfl⟩ := s.memWrite_cases _ _ s' h
    exact .inr ⟨by rw [encode, hI]; decide, .refl s⟩
  | inPort d a v s' h ht hi =>
    subst ht hi
    obtain ⟨hI, -⟩ := encodeOne_fields 0xC8#8 d a
    exact .inr ⟨by rw [encode, hI]; decide, (State.portIn_sameOutputs h).setReg_advance d v⟩
  | outPort d a s' h ht hi =>
    subst ht hi
    obtain ⟨hI, -⟩ := encodeOne_fields 0xCC#8 d a
    obtain ⟨p, -, rfl⟩ := s.portOut_cases _ _ s' h
    exact .inl ⟨.inl hI, _, rfl⟩
  | gfxsp d ab h hi =>
    subst h hi
    obtain ⟨aa, x, y, l, hp⟩ := encodeTwo_packed 0xD0#8 d ab
    exact .inl ⟨.inr (by rw [encode, hp, packFields_shiftRight_24]; rfl), _, rfl⟩

/-- Settles O53, by `exec_events`. -/
theorem eventsAreAppendedInProgramOrder : Obligations.EventsAreAppendedInProgramOrder := by
  intro i s t hexec
  rcases exec_events hexec with ⟨hsends, hevent⟩ | ⟨hnot, hsame⟩
  · exact ⟨fun _ => hevent, fun hne => absurd hsends (not_or.mpr hne)⟩
  · exact ⟨fun hsends => absurd hsends hnot, fun _ => hsame⟩

/-! The program counter (R25). -/

theorem SameControl.advance_pc {s s' : State} (h : SameControl s s') :
    s'.advance.pc.toNat = (s.pc.toNat + 1) % 2 ^ s.cfg.pcWidth.bits := by
  obtain ⟨⟨-, -, hcfg, -⟩, -, -, -, hpc⟩ := h
  rw [State.advance_pc, nextPc_toNat, hcfg, hpc]

/-- A branch ends at its target or at the next instruction. -/
theorem exec_branchArg {i : Instr} {a : Arg} {s t : State} (ha : branchArg i = some a) (hexec : exec i s = .next t) :
    t = s.jump (s.valArg a) ∨ t = s.advance := by
  have hbranch : ∀ n want, exec i s = .next (s.branchOn n want a) → t = s.jump (s.valArg a) ∨ t = s.advance := by
    intro n want h
    cases hexec.symm.trans h
    exact (s.branchOn_cases n want a).imp And.right And.right
  cases i
  case brn => cases ha; cases hexec; exact .inl rfl
  case bgt | blt | bsgt | bslt | beq | bz | bneg | bpos | bev | bbev | bc | bof | ble | bge | bsle | bsge | bneq | bnz |
      bposz | bnegz | bod | bbod | bnc | bnof =>
    cases ha; exact hbranch _ _ rfl
  all_goals cases ha

/-- An instruction that is no branch and not HLT ends at the next instruction. -/
theorem exec_pc_of_notBranch {i : Instr} {s t : State} (ha : branchArg i = none) (hhlt : i ≠ .hlt)
    (hexec : exec i s = .next t) : t.pc.toNat = (s.pc.toNat + 1) % 2 ^ s.cfg.pcWidth.bits := by
  cases i
  case hlt => exact absurd rfl hhlt
  case reserved2C | reserved2D | reserved2E | reserved3C | reserved3D | reserved3E | reserved3F | reserved4C |
      reserved4D | reserved4E | reserved5C | reserved5D | reserved5E | reserved5F => cases hexec
  case nop => cases hexec; exact (SameControl.refl s).advance_pc
  case stl => cases hexec; exact nextPc_toNat _ _
  case add | sub | rshift | lshift | mul | smul | umul | sumul | pass | not | and | or | xor | nand | nor | xnor =>
    cases hexec; rw [State.alu_pc, nextPc_toNat]
  case sgt | slt | ssgt | sslt | seq | sz | sneg | spos | sev | sbev | sc | sof | sle | sge | ssle | ssge | sneq | snz |
      sposz | snegz | sod | sbod | snc | snof | mov | ldi =>
    cases hexec; exact ((SameControl.refl s).setReg _ _).advance_pc
  case lod d a =>
    obtain ⟨⟨v, s'⟩, hread, rfl⟩ := andThen_next _ _ _ hexec
    exact ((State.memRead_sameControl hread).setReg d v).advance_pc
  case str d a =>
    obtain ⟨s', hwrite, rfl⟩ := andThen_next _ _ _ hexec
    exact (State.memWrite_sameControl hwrite).advance_pc
  case inPort d a =>
    obtain ⟨⟨v, s'⟩, hread, rfl⟩ := andThen_next _ _ _ hexec
    exact ((State.portIn_sameControl hread).setReg d v).advance_pc
  case outPort d a =>
    obtain ⟨s', hwrite, rfl⟩ := andThen_next _ _ _ hexec
    exact (State.portOut_sameControl hwrite).advance_pc
  case gfxsp => cases hexec; exact (sameControl_of_eq rfl : SameControl s (s.gfxSend _ _ _)).advance_pc
  all_goals cases ha

/-- Settles O56, by whether the instruction has a branch target. -/
theorem pcMovesInSequenceOrToATarget : Obligations.PcMovesInSequenceOrToATarget := by
  intro i s t hexec
  by_cases hhlt : i = .hlt
  · subst hhlt
    cases hexec
    exact .inl ⟨rfl, rfl⟩
  cases ha : branchArg i with
  | none => exact .inr (.inl ⟨hhlt, exec_pc_of_notBranch ha hhlt hexec⟩)
  | some a =>
    rcases exec_branchArg ha hexec with rfl | rfl
    · exact .inr (.inr ⟨a, rfl, truncPc_toNat _ _⟩)
    · exact .inr (.inl ⟨hhlt, nextPc_toNat _ _⟩)

end Sys2Proof.Machine
end

section
/-! PROOF. Register 0 (10_state.md R22) and what no instruction can tell (10_state.md R32, 60_exceptions.md R313). -/

namespace Sys2Proof.Machine

/-! Register 0: an instruction with D = 0 instead of D = d does all but the write. -/

/-- What is said of the instruction `i`, which has D = 0, and the instruction `j`, which differs from it in D alone. -/
def ZeroRule (i j : Instr) (s : State) : Prop :=
  (∀ f, exec i s = .fault f ↔ exec j s = .fault f) ∧
  ∀ t, exec i s = .next t → SameRegs s t ∧ ∃ u, exec j s = .next u ∧ u = { t with regs := u.regs }

/-- A register write changes the registers alone. -/
theorem State.setReg_eq_withRegs (s : State) (d : RegId) (v : Word) :
    s.setReg d v = { s with regs := (s.setReg d v).regs } := by
  unfold State.setReg
  split <;> rfl

theorem State.setReg_advance_eq_withRegs (s : State) (d : RegId) (v : Word) :
    (s.setReg d v).advance = { (s.setReg 0 v).advance with regs := (s.setReg d v).advance.regs } := by
  rw [show s.setReg 0 v = s from s.setReg_zero v]
  conv_lhs => rw [s.setReg_eq_withRegs d v]
  rfl

theorem zeroRule_alu {i j : Instr} {s : State} {op : AluOp} {d : RegId} {a b : Word}
    (hi : exec i s = .next (s.alu op 0 a b)) (hj : exec j s = .next (s.alu op d a b)) : ZeroRule i j s := by
  refine ⟨fun f => by rw [hi, hj]; exact ⟨nofun, nofun⟩, fun t ht => ?_⟩
  cases hi.symm.trans ht
  refine ⟨fun r => ?_, _, hj, State.setReg_advance_eq_withRegs _ d _⟩
  by_cases hr : r = 0
  · subst hr; exact (State.reg_zero _).trans s.reg_zero.symm
  · exact s.alu_reg_other op 0 a b r hr

/-- LOD and IN make their read before the write of `x[D]`. -/
theorem zeroRule_read {i j : Instr} {s : State} {d : RegId} {r : Except Fault (Word × State)}
    (hi : exec i s = andThen r fun vs => (vs.2.setReg 0 vs.1).advance)
    (hj : exec j s = andThen r fun vs => (vs.2.setReg d vs.1).advance)
    (hregs : ∀ v s', r = .ok (v, s') → SameRegs s s') : ZeroRule i j s := by
  unfold ZeroRule
  rw [hi, hj]
  cases r with
  | error f => exact ⟨fun g => Iff.rfl, nofun⟩
  | ok vs =>
    obtain ⟨v, s'⟩ := vs
    refine ⟨fun f => ⟨nofun, nofun⟩, fun t ht => ?_⟩
    cases ht
    refine ⟨fun r => ?_, _, rfl, s'.setReg_advance_eq_withRegs d v⟩
    change (s'.setReg 0 v).reg r = s.reg r
    rw [show s'.setReg 0 v = s' from s'.setReg_zero v]
    exact hregs v s' rfl r

/-- Settles O50: the two laws of register 0, and the rule for the ALU instructions and for the reads. -/
theorem registerZeroIsHardwired : Obligations.RegisterZeroIsHardwired := by
  refine ⟨fun s => s.reg_zero, fun s v => s.setReg_zero v, fun ab a d s i j hij => ?_⟩
  change ZeroRule i j s
  fin_cases hij
  any_goals exact zeroRule_alu rfl rfl
  · exact zeroRule_read rfl rfl fun _ _ => State.memRead_sameRegs
  · exact zeroRule_read rfl rfl fun _ _ => State.portIn_sameRegs

/-! Outputs and time: each operation commutes with a change of what no instruction reads. -/

/-- The state with other output latches, events and clock. -/
def State.withOutputs (s : State) (out : Vector Word 16) (events : List Event) (clocks : Nat) : State :=
  { s with outPorts := out, events := events, clocks := clocks }

/-- Two results with the same reason to stop, or with next states that differ in outputs and clock alone. -/
def SameButOutputs (r r' : Result) : Prop :=
  (∀ f, r = .fault f → r' = .fault f) ∧ ∀ t, r = .next t → ∃ out events clocks, r' = .next (t.withOutputs out events clocks)

theorem sameButOutputs_next {t t' : State} {out : Vector Word 16} {events : List Event} {clocks : Nat}
    (h : t' = t.withOutputs out events clocks) : SameButOutputs (.next t) (.next t') :=
  ⟨nofun, fun _ ht => by cases ht; exact ⟨out, events, clocks, congrArg _ h⟩⟩

theorem sameButOutputs_fault (f : Fault) : SameButOutputs (.fault f) (.fault f) := ⟨fun _ h => h, nofun⟩

section outputs
variable (s : State) (out : Vector Word 16) (events : List Event) (clocks : Nat)

theorem State.withOutputs_valArg (a : Arg) : (s.withOutputs out events clocks).valArg a = s.valArg a := by
  cases a <;> rfl

theorem State.withOutputs_valA (ab : Args) : (s.withOutputs out events clocks).valA ab = s.valA ab := by
  cases ab <;> rfl

theorem State.withOutputs_valB (ab : Args) : (s.withOutputs out events clocks).valB ab = s.valB ab := by
  cases ab <;> rfl

theorem State.withOutputs_valSetA (ab : SetArgs) : (s.withOutputs out events clocks).valSetA ab = s.valSetA ab := by
  cases ab
  · exact s.withOutputs_valArg out events clocks _
  · exact s.withOutputs_valA out events clocks _

theorem State.withOutputs_valSetB (ab : SetArgs) : (s.withOutputs out events clocks).valSetB ab = s.valSetB ab := by
  cases ab
  · rfl
  · exact s.withOutputs_valB out events clocks _

theorem State.withOutputs_setReg (d : RegId) (v : Word) :
    (s.withOutputs out events clocks).setReg d v = (s.setReg d v).withOutputs out events clocks := by
  unfold State.setReg
  split <;> rfl

theorem State.withOutputs_setReg_advance (d : RegId) (v : Word) :
    ((s.withOutputs out events clocks).setReg d v).advance =
      (s.setReg d v).advance.withOutputs out events (clocks + clocksPerInstruction) := by
  rw [State.withOutputs_setReg]; rfl

theorem State.withOutputs_alu (op : AluOp) (d : RegId) (a b : Word) :
    (s.withOutputs out events clocks).alu op d a b =
      (s.alu op d a b).withOutputs out events (clocks + clocksPerInstruction) :=
  State.withOutputs_setReg_advance { s with flags := _, draws := _ } out events clocks d _

theorem State.withOutputs_jump (a : Arg) :
    (s.withOutputs out events clocks).jump ((s.withOutputs out events clocks).valArg a) =
      (s.jump (s.valArg a)).withOutputs out events (clocks + clocksPerInstruction) := by
  rw [State.withOutputs_valArg]; rfl

theorem State.withOutputs_branchOn (n : Flag) (want : Bool) (a : Arg) :
    (s.withOutputs out events clocks).branchOn n want a =
      (s.branchOn n want a).withOutputs out events (clocks + clocksPerInstruction) := by
  rw [State.branchOn, State.branchOn, State.withOutputs_jump,
    show (s.withOutputs out events clocks).flag n = s.flag n from rfl]
  split <;> rfl

theorem State.withOutputs_selectOn (n : Flag) (want : Bool) (d : RegId) (ab : SetArgs) :
    (s.withOutputs out events clocks).selectOn n want d ab =
      (s.selectOn n want d ab).withOutputs out events (clocks + clocksPerInstruction) := by
  rw [State.selectOn, State.withOutputs_valSetA, State.withOutputs_valSetB]
  exact State.withOutputs_setReg_advance s out events clocks d _

theorem State.withOutputs_ramRead (a : Nat) : (s.withOutputs out events clocks).ramRead a =
    (s.ramRead a).map fun vs => (vs.1, vs.2.withOutputs out events clocks) := by
  rw [State.ramRead, State.ramRead, show (s.withOutputs out events clocks).ramWord a = s.ramWord a from rfl,
    show (s.withOutputs out events clocks).cfg = s.cfg from rfl]
  cases s.ramWord a with
  | some v => rfl
  | none => cases s.cfg.unwritten <;> rfl

theorem State.withOutputs_memRead (addr : Word) : (s.withOutputs out events clocks).memRead addr =
    (s.memRead addr).map fun vs => (vs.1, vs.2.withOutputs out events clocks) := by
  rw [State.memRead, State.memRead, show (s.withOutputs out events clocks).cfg = s.cfg from rfl]
  cases ramIndex s.cfg addr with
  | none => rfl
  | some a => exact s.withOutputs_ramRead out events clocks a

theorem State.withOutputs_takeInput (p : PortId) : (s.withOutputs out events clocks).takeInput p =
    ((s.takeInput p).1, (s.takeInput p).2.withOutputs out events clocks) := by
  rw [State.takeInput, State.takeInput, show (s.withOutputs out events clocks).inputs = s.inputs from rfl]
  cases s.inputs <;> rfl

theorem State.withOutputs_portIn (n : Word) : (s.withOutputs out events clocks).portIn n =
    (s.portIn n).map fun vs => (vs.1, vs.2.withOutputs out events clocks) := by
  rw [State.portIn, State.portIn, show (s.withOutputs out events clocks).cfg = s.cfg from rfl]
  cases portIndex s.cfg n with
  | none => rfl
  | some p => exact congrArg Except.ok (s.withOutputs_takeInput out events clocks p)

/-- The end of LOD and IN, after a read that does not see the outputs. -/
theorem sameButOutputs_read (d : RegId) (r : Except Fault (Word × State)) : SameButOutputs
    (andThen r fun vs => (vs.2.setReg d vs.1).advance)
    (andThen (r.map fun vs => (vs.1, vs.2.withOutputs out events clocks)) fun vs => (vs.2.setReg d vs.1).advance) := by
  cases r with
  | error f => exact sameButOutputs_fault f
  | ok vs => exact sameButOutputs_next (vs.2.withOutputs_setReg_advance out events clocks d vs.1)

theorem exec_sameButOutputs (i : Instr) :
    SameButOutputs (exec i s) (exec i (s.withOutputs out events clocks)) := by
  cases i
  case nop | hlt | stl => exact sameButOutputs_next rfl
  case reserved2C | reserved2D | reserved2E | reserved3C | reserved3D | reserved3E | reserved3F | reserved4C |
      reserved4D | reserved4E | reserved5C | reserved5D | reserved5E | reserved5F => exact sameButOutputs_fault _
  case add d ab | sub d ab | rshift d ab | lshift d ab | mul d ab | smul d ab | umul d ab | sumul d ab | and d ab |
      or d ab | xor d ab | nand d ab | nor d ab | xnor d ab =>
    refine sameButOutputs_next (.trans ?_ (s.withOutputs_alu out events clocks _ d (s.valA ab) (s.valB ab)))
    rw [State.withOutputs_valA, State.withOutputs_valB]
  case pass d a | not d a =>
    refine sameButOutputs_next (.trans ?_ (s.withOutputs_alu out events clocks _ d (s.valArg a) 0))
    rw [State.withOutputs_valArg]
  case mov d a | ldi d a =>
    refine sameButOutputs_next (.trans ?_ (s.withOutputs_setReg_advance out events clocks d (s.valArg a)))
    rw [State.copy, State.withOutputs_valArg]
  case sgt | slt | ssgt | sslt | seq | sz | sneg | spos | sev | sbev | sc | sof | sle | sge | ssle | ssge | sneq | snz |
      sposz | snegz | sod | sbod | snc | snof =>
    exact sameButOutputs_next (s.withOutputs_selectOn out events clocks _ _ _ _)
  case brn a =>
    exact sameButOutputs_next (s.withOutputs_jump out events clocks a)
  case lod d a =>
    rw [exec, exec, execLod, execLod, State.withOutputs_valArg, State.withOutputs_memRead]
    exact sameButOutputs_read out events clocks d _
  case inPort d a =>
    rw [exec, exec, execInPort, execInPort, State.withOutputs_valArg, State.withOutputs_portIn]
    exact sameButOutputs_read out events clocks d _
  case str d a =>
    rw [exec, exec, execStr, execStr, State.withOutputs_valArg, State.memWrite, State.memWrite,
      show (s.withOutputs out events clocks).cfg = s.cfg from rfl]
    cases ramIndex s.cfg (s.valArg a)
    · exact sameButOutputs_fault _
    · exact sameButOutputs_next rfl
  case outPort d a =>
    rw [exec, exec, execOutPort, execOutPort, State.withOutputs_valArg, State.portOut, State.portOut,
      show (s.withOutputs out events clocks).cfg = s.cfg from rfl]
    cases portIndex s.cfg (s.valArg a)
    · exact sameButOutputs_fault _
    · exact sameButOutputs_next rfl
  case gfxsp => exact sameButOutputs_next rfl
  all_goals exact sameButOutputs_next (s.withOutputs_branchOn out events clocks _ _ _)

end outputs

/-- Settles O57, by `exec_sameButOutputs`. -/
theorem outputsAndTimeAreInvisible : Obligations.OutputsAndTimeAreInvisible := by
  intro i s out events clocks
  obtain ⟨hfault, hnext⟩ := exec_sameButOutputs s out events clocks i
  refine ⟨hfault, fun t ht => ?_⟩
  obtain ⟨out', events', clocks', ht'⟩ := hnext t ht
  exact ⟨_, ht', rfl⟩

end Sys2Proof.Machine
end
